-- ==== Sys2Proof/Word.lean ====
section
/-! DEFINITION. The word types of the core: bytes, 16-bit words, 12-bit address fields, register indices, pixels. -/

namespace Sys2Proof

/-- 8 bits: a general register, a memory byte, a timer, an immediate NN (10_state.md R21, R27, R28). -/
abbrev Byte := BitVec 8

/-- 16 bits: an instruction word, `pc`, `I`, a stack entry (10_state.md R23, R24, R25, R31). -/
abbrev Word := BitVec 16

/-- The 12-bit address field NNN of an instruction word (30_encoding.md R81). -/
abbrev Addr := BitVec 12

/-- The index of a general register, of a key or of a stack entry: always 0 to 15 (10_state.md R21, R25, R32). -/
abbrev Reg := Fin 16

/-- A pixel: `true` is ON, `false` is OFF (10_state.md R30: "A model may therefore hold a pixel as one bit, with `ON` = 1 and `OFF` = 0"). -/
abbrev Pixel := Bool

end Sys2Proof
end

