-- ==== Sys2Proof/Config.lean ====
section
/-! DEFINITION. The configuration of a core (00_scope.md R8, R9): what is fixed for its lifetime, and the one free value. -/

namespace Sys2Proof

/-- SHIFT_SOURCE (43_alu.md R200): whether 8XY6 and 8XYE shift `V[X]` in place or `V[Y]` into `V[X]`. -/
inductive ShiftSource
  | vx
  | vy
  deriving DecidableEq, Repr

/-- DRAW_EDGE (40_display.md R122): what happens to a pixel beyond the right or bottom edge. -/
inductive DrawEdge
  | clip
  | wrap
  deriving DecidableEq, Repr

/-- The parameters that 00_scope.md R9 leaves open. "A model takes each as an argument of its configuration."
`font` is the FONT argument of `construct` (70_reset_and_hazards.md R321), 16 glyphs of 5 bytes.
`pixelBits` is PIXEL_BITS, the width of the host's pixel word (10_state.md R30); no instruction depends on it. -/
structure Config where
  shiftSource   : ShiftSource
  drawEdge      : DrawEdge
  fx0aClearsKey : Bool
  pixelBits     : Nat
  font          : Vector Byte 80
  deriving DecidableEq, Repr

/-- FREE VALUE (log entry 3): the random byte of the n-th step transaction where the host's byte is not written into the state.
42_register_immediate.md R173: "a free input byte per step that satisfies no law". It has no body, so nothing can be proved of it. -/
opaque Config.freeRand : Nat → Byte

end Sys2Proof
end

