-- ==== Sys2Proof/Machine/Settings.lean ====
section
/-! DEFINITION. The settings State.reset is constructed with: the defaults of 00_scope.md R9, and a font. -/

namespace Sys2Proof.Machine

/-- The conventional font table, digits 0 to 7 (93_implementation_defined.md G2).
PRESUMED (log entry 2): the spec quotes it from general knowledge and gives FONT no default. -/
def fontRows0to7 : List Byte :=
  [0xF0, 0x90, 0x90, 0x90, 0xF0] ++ [0x20, 0x60, 0x20, 0x20, 0x70] ++
  [0xF0, 0x10, 0xF0, 0x80, 0xF0] ++ [0xF0, 0x10, 0xF0, 0x10, 0xF0] ++
  [0x90, 0x90, 0xF0, 0x10, 0x10] ++ [0xF0, 0x80, 0xF0, 0x10, 0xF0] ++
  [0xF0, 0x80, 0xF0, 0x90, 0xF0] ++ [0xF0, 0x10, 0x20, 0x40, 0x40]

/-- The conventional font table, digits 8 to F (93_implementation_defined.md G2). PRESUMED (log entry 2). -/
def fontRows8toF : List Byte :=
  [0xF0, 0x90, 0xF0, 0x90, 0xF0] ++ [0xF0, 0x90, 0xF0, 0x10, 0xF0] ++
  [0xF0, 0x90, 0xF0, 0x90, 0x90] ++ [0xE0, 0x90, 0xE0, 0x90, 0xE0] ++
  [0xF0, 0x80, 0x80, 0x80, 0xF0] ++ [0xE0, 0x90, 0x90, 0x90, 0xE0] ++
  [0xF0, 0x80, 0xF0, 0x80, 0xF0] ++ [0xF0, 0x80, 0xF0, 0x80, 0x80]

/-- The font State.reset is constructed with. -/
def conventionalFont : Vector Byte 80 := ⟨(fontRows0to7 ++ fontRows8toF).toArray, by decide⟩

/-- The default settings of 00_scope.md R9: SHIFT_SOURCE = VX, DRAW_EDGE = CLIP, FX0A_CLEARS_KEY = false, PIXEL_BITS = 32
(log entry 1), with the conventional font (log entry 2). -/
def defaultConfig : Config where
  shiftSource   := .vx
  drawEdge      := .clip
  fx0aClearsKey := false
  pixelBits     := 32
  font          := conventionalFont

end Sys2Proof.Machine
end

