-- ==== Sys2Proof/Machine/State.lean ====
section
/-! DEFINITION. The state of the core (10_state.md R20), the state after `construct` (R38), and the reasons a step could stop. -/

namespace Sys2Proof.Machine

/-- The reasons the machine stops with a fault: NONE.
The core never halts by itself (70_reset_and_hazards.md R331), no word faults on decode (30_encoding.md R94), and an execution
fault of the spec is a bit of the register `fault` after which execution continues (60_exceptions.md R280, R284), never a stop.
So this closed type has no constructor, nothing raises it, and that is exact, neither safe nor unsafe (log entry 5). -/
inductive Fault
  deriving DecidableEq, Repr

/-- The reasons the model refuses an instruction. -/
inductive Refusal
  /-- Raised only by an arm of `exec` whose instruction has no meaning yet; every instruction has one, so nothing raises it. Safe. -/
  | notModelled (mnemonic : String)
  deriving DecidableEq, Repr

/-- The causes of the spec's execution faults (60_exceptions.md R281); each is a bit of the register `fault`. -/
inductive FaultCause
  | stackOverflow
  | stackUnderflow
  | fetchOob
  | readOob
  | writeOob
  | keyOob
  deriving DecidableEq, Repr

/-- Memory as the bytes that differ from the reset contents: (address, byte) pairs, addresses strictly rising (log entry 4). -/
abbrev Memory := List Host.Cell

/-- The framebuffer: 32 rows of 64 pixels (10_state.md R29, row-major; pixel index `x + y*64`). -/
abbrev Screen := Vector (Vector Pixel 64) 32

/-- The state of the core. Every field but the last three is a row of 10_state.md R20. -/
structure State where
  /-- the general registers V0 to VF (R21) -/
  V      : Vector Byte 16
  /-- the index register (R23) -/
  I      : Word
  /-- the program counter (R24) -/
  pc     : Word
  /-- the return-address stack (R25) -/
  stack  : Vector Word 16
  /-- the next free slot of the stack, 0 to 16 (R26) -/
  sp     : Fin 17
  /-- the delay timer (R27) -/
  DT     : Byte
  /-- the sound timer (R27) -/
  ST     : Byte
  /-- the bytes of memory that differ from the reset contents (R28) -/
  mem    : Memory
  /-- the framebuffer (R29, R30) -/
  video  : Screen
  /-- the key latch, `true` while the key is down (R32) -/
  keys   : Vector Bool 16
  /-- the last fetched word (R31) -/
  opcode : Word
  /-- the sticky execution-fault bits (R33) -/
  fault  : Byte
  /-- the configuration the core was constructed with (R34, 00_scope.md R9); no step writes it (log entry 1) -/
  cfg    : Config
  /-- the `rand` byte of the coming step transaction, where the host has given it (00_scope.md R6; log entry 3) -/
  randIn : Option Byte
  /-- how many step transactions have been made: the argument of the free random byte (log entry 3) -/
  draws  : Nat
  deriving DecidableEq, Repr

/-- What an instruction's meaning answers. -/
abbrev Out := Host.Outcome State Fault Refusal

/-- The state after a successful `construct` with a configuration (10_state.md R38, 70_reset_and_hazards.md R320).
Memory lists nothing: an unlisted byte reads as the reset contents, the font at 0x050 and 0x00 elsewhere (`Memory.unlisted`). -/
def State.construct (cfg : Config) : State where
  V      := Vector.replicate 16 0x00
  I      := 0x0000
  pc     := 0x0200
  stack  := Vector.replicate 16 0x0000
  sp     := 0
  DT     := 0x00
  ST     := 0x00
  mem    := []
  video  := Vector.replicate 32 (Vector.replicate 64 false)
  keys   := Vector.replicate 16 false
  opcode := 0x0000
  fault  := 0x00
  cfg    := cfg
  randIn := none
  draws  := 0

/-- The machine right after reset: `construct` is the only reset (70_reset_and_hazards.md R322). -/
def State.reset : State := State.construct defaultConfig

end Sys2Proof.Machine
end

