-- ==== Sys2Proof/Machine/Ops.lean ====
section
/-! DEFINITION. The named operations over registers, memory, the stack, the key latch, the framebuffer and the timers, and the
one operation that takes an execution fault. -/

namespace Sys2Proof.Machine

/-! ## Execution faults -/

/-- The cause codes (60_exceptions.md R281). -/
def FaultCause.code : FaultCause → Nat
  | .stackOverflow => 0
  | .stackUnderflow => 1
  | .fetchOob => 2
  | .readOob => 3
  | .writeOob => 4
  | .keyOob => 5

/-- `raise Fault(c)` (60_exceptions.md R280): sets the cause's sticky bit. Nothing else happens: this is the whole of taking an
exception on this core; no state is saved, no pc redirected (R284), and there is no return from one (R285). -/
def State.raise (c : FaultCause) (s : State) : State :=
  { s with fault := s.fault ||| (1#8 <<< c.code) }

/-! ## Registers -/

/-- `V[x]` (10_state.md R21). -/
def State.reg (s : State) (x : Reg) : Byte := s.V[x.val]

/-- `V[x] <- b` (10_state.md R21). No register is hard-wired. -/
def State.setReg (s : State) (x : Reg) (b : Byte) : State := { s with V := s.V.set x.val b }

/-- `I <- w`. -/
def State.setI (s : State) (w : Word) : State := { s with I := w }

/-- `pc <- w`. -/
def State.setPc (s : State) (w : Word) : State := { s with pc := w }

/-- `DT <- b`. -/
def State.setDT (s : State) (b : Byte) : State := { s with DT := b }

/-- `ST <- b`. -/
def State.setST (s : State) (b : Byte) : State := { s with ST := b }

/-- The skip statement (41_control_flow.md R148): `pc <- (pc + 2) mod 2^16`, after the fetch advance. -/
def State.skip (s : State) : State := s.setPc (s.pc + 2)

/-- A skip taken when the condition holds. -/
def State.skipIf (s : State) (b : Bool) : State := if b then s.skip else s

/-- The registers V0 to Vx, in ascending order: the loop of FX55 and FX65 (45_index_memory.md R253, R254). -/
def regsThrough (x : Reg) : List Reg := (List.finRange 16).filter (fun r => decide (r ≤ x))

/-! ## Memory -/

/-- What an unlisted address reads as: the reset contents of memory (10_state.md R38, 20_memory.md R51). -/
def Memory.unlisted (c : Config) (a : Nat) : Byte :=
  if h : 0x050 ≤ a ∧ a < 0x0A0 then c.font[a - 0x050]'(by omega) else 0x00

/-- The byte at an address. -/
def Memory.read (c : Config) : Memory → Nat → Byte
  | [], a => Memory.unlisted c a
  | (k, b) :: m, a => if k = a then b else Memory.read c m a

/-- Memory without an entry at `a`. -/
def Memory.erase (m : Memory) (a : Nat) : Memory := m.filter (fun cell => cell.1 != a)

/-- Puts an entry before the first one at a higher address. -/
def Memory.insert : Memory → Nat → Byte → Memory
  | [], a, v => [(a, v)]
  | (k, b) :: m, a, v => if a < k then (a, v) :: (k, b) :: m else (k, b) :: Memory.insert m a v

/-- Writes one byte, keeping the canonical form: writing what an unlisted address reads as removes the entry. -/
def Memory.write (c : Config) (m : Memory) (a : Nat) (v : Byte) : Memory :=
  if v = Memory.unlisted c a then Memory.erase m a else Memory.insert (Memory.erase m a) a v

/-- The entries lie at strictly rising addresses from `lo` up, below 4096, and none equals what its address reads as unlisted. -/
def Memory.wfFrom (c : Config) : Nat → Memory → Bool
  | _, [] => true
  | lo, (k, b) :: m =>
    decide (lo ≤ k) && decide (k < 4096) && decide (b ≠ Memory.unlisted c k) && Memory.wfFrom c (k + 1) m

/-- The canonical form of memory. -/
def Memory.wf (c : Config) (m : Memory) : Bool := Memory.wfFrom c 0 m

/-- `mem[a]`, for any natural number `a`. -/
def State.peek (s : State) (a : Nat) : Byte := Memory.read s.cfg s.mem a

/-- `mem[a] <- v`. -/
def State.poke (s : State) (a : Nat) (v : Byte) : State := { s with mem := Memory.write s.cfg s.mem a v }

/-- `MemRead(a, 1)` (20_memory.md R52): the byte read, and the state with READ_OOB recorded where `a` is out of range. -/
def memRead (a : Nat) (s : State) : Byte × State :=
  if a ≤ 0xFFF then (s.peek a, s) else (0x00, s.raise .readOob)

/-- `MemWrite(a, 1, v)` (20_memory.md R53): an out-of-range write is discarded and WRITE_OOB recorded. -/
def memWrite (a : Nat) (v : Byte) (s : State) : State :=
  if a ≤ 0xFFF then s.poke a v else s.raise .writeOob

/-- `FetchRead(a)` (20_memory.md R54). -/
def fetchRead (a : Nat) (s : State) : Byte × State :=
  if a ≤ 0xFFF then (s.peek a, s) else (0x00, s.raise .fetchOob)

/-! ## The return stack -/

/-- Pushes a return address (41_control_flow.md R142); none when the stack is full. -/
def State.push? (s : State) (w : Word) : Option State :=
  if h : s.sp.val < 16 then
    some { s with stack := s.stack.set s.sp.val w, sp := ⟨s.sp.val + 1, by omega⟩ }
  else none

/-- Pops a return address (41_control_flow.md R140); none when the stack is empty. The entry is not cleared (10_state.md R25). -/
def State.pop? (s : State) : Option (Word × State) :=
  if h : 0 < s.sp.val then
    some (s.stack[s.sp.val - 1]'(by omega), { s with sp := ⟨s.sp.val - 1, by omega⟩ })
  else none

/-! ## The key latch -/

/-- `keys[k]`. -/
def State.key (s : State) (k : Fin 16) : Bool := s.keys[k.val]

/-- `keys[k] <- 0`. -/
def State.clearKey (s : State) (k : Fin 16) : State := { s with keys := s.keys.set k.val false }

/-- `KeyRead(k)` (44_keys_timers.md R222): an index above 15 records KEY_OOB and reads as up. -/
def keyRead (k : Byte) (s : State) : Bool × State :=
  if h : k.toNat ≤ 15 then (s.key ⟨k.toNat, by omega⟩, s) else (false, s.raise .keyOob)

/-- The lowest-numbered key that is down (44_keys_timers.md R224). -/
def State.firstKeyDown? (s : State) : Option (Fin 16) := (List.finRange 16).find? (fun k => s.key k)

/-! ## The framebuffer -/

/-- The pixel of index `p = x + y*64` (10_state.md R29). -/
def Screen.pixel (v : Screen) (p : Fin 2048) : Pixel :=
  (v[p.val / 64]'(by omega))[p.val % 64]'(by omega)

/-- `video[p] <- video[p] ^ ON` (10_state.md R30). -/
def Screen.toggle (v : Screen) (p : Fin 2048) : Screen :=
  v.set (p.val / 64)
    ((v[p.val / 64]'(by omega)).set (p.val % 64) (!Screen.pixel v p) (by omega)) (by omega)

/-- All 2048 pixels OFF. -/
def Screen.blank : Screen := Vector.replicate 32 (Vector.replicate 64 false)

/-- `video[p]`. -/
def State.pixel (s : State) (p : Fin 2048) : Pixel := Screen.pixel s.video p

/-- Toggles one pixel. -/
def State.togglePixel (s : State) (p : Fin 2048) : State := { s with video := Screen.toggle s.video p }

/-! ## The random byte -/

/-- The `rand` byte of this step transaction: the host's, or else a free value (60_exceptions.md R291; log entry 3). -/
def State.rand (s : State) : Byte := s.randIn.getD (Config.freeRand s.draws)

/-- The transaction's `rand` byte is used up; the next step has one of its own. -/
def State.nextDraw (s : State) : State := { s with randIn := none, draws := s.draws + 1 }

/-! ## The timers -/

/-- One tick of a timer: it stops at 0 (60_exceptions.md R288). -/
def tick (b : Byte) : Byte := if 0 < b.toNat then b - 1 else b

/-- `TimerTick()` (60_exceptions.md R288). -/
def timerTick (s : State) : State := { s with DT := tick s.DT, ST := tick s.ST }

end Sys2Proof.Machine
end

