-- ==== Sys2Proof/Machine/Operands.lean ====
section
/-! DEFINITION. Every operand form of the instruction set (30_encoding.md R82; 00_scope.md R13): how fields and registers become
values and addresses. -/

namespace Sys2Proof.Machine

/-- `zext_16(NNN)`: the address field as written to `pc` or `I` (30_encoding.md R82). -/
def zextAddr (nnn : Addr) : Word := nnn.setWidth 16

/-- `I + k`, an exact natural number, never wrapped (20_memory.md R55). -/
def State.effAddr (s : State) (k : Nat) : Nat := s.I.toNat + k

/-- `zext_16(NNN) + V[0]` (41_control_flow.md R147); the sum fits 16 bits. -/
def State.jumpOffset (s : State) (nnn : Addr) : Word := BitVec.ofNat 16 (nnn.toNat + (s.reg 0).toNat)

/-- The operand of a shift, chosen by SHIFT_SOURCE (43_alu.md R200). -/
def State.shiftOperand (s : State) (x y : Reg) : Byte :=
  match s.cfg.shiftSource with
  | .vx => s.reg x
  | .vy => s.reg y

/-- `(I + n) mod 2^16` (10_state.md R23). -/
def State.indexPlus (s : State) (n : Nat) : Word := BitVec.ofNat 16 (s.I.toNat + n)

/-- The address of a font glyph, `0x050 + b * 5` (45_index_memory.md R251); `b` is used whole and the value fits 16 bits. -/
def glyphAddr (b : Byte) : Word := BitVec.ofNat 16 (0x050 + b.toNat * 5)

/-- The x-coordinate of a sprite's origin (40_display.md R121). -/
def State.originX (s : State) (x : Reg) : Nat := (s.reg x).toNat % 64

/-- The y-coordinate of a sprite's origin (40_display.md R121). -/
def State.originY (s : State) (y : Reg) : Nat := (s.reg y).toNat % 32

/-- The hundreds, tens and ones digits of a byte, most significant first (45_index_memory.md R252). -/
def bcdDigits (b : Byte) : List Byte :=
  [BitVec.ofNat 8 (b.toNat / 100), BitVec.ofNat 8 (b.toNat / 10 % 10), BitVec.ofNat 8 (b.toNat % 10)]

end Sys2Proof.Machine
end

