-- ==== Sys2Proof/Machine/Flags.lean ====
section
/-! DEFINITION. Every flag computation: the only flag is VF = V[0xF] (10_state.md R22), written by 8XY4, 8XY5, 8XY6, 8XY7, 8XYE
and DXYN. -/

namespace Sys2Proof.Machine

/-- The byte a flag leaves in VF: 1 or 0. -/
def flagByte (b : Bool) : Byte := if b then 1 else 0

/-- VF, the flag register. -/
abbrev regF : Reg := 15

/-- `VF <- flag`. -/
def State.setFlag (s : State) (b : Bool) : State := s.setReg regF (flagByte b)

/-- Carry: bit 8 of the exact sum (43_alu.md R194). -/
def carryOut (a b : Byte) : Bool := decide (255 < a.toNat + b.toNat)

/-- No borrow of `a - b`: the minuend is at least the subtrahend (43_alu.md R195, R197, R201). -/
def noBorrow (a b : Byte) : Bool := decide (b.toNat ≤ a.toNat)

/-- The bit a right shift moves out: bit 0 (43_alu.md R196). -/
def shiftedOutRight (a : Byte) : Bool := a.getLsbD 0

/-- The bit a left shift moves out: bit 7 (43_alu.md R198). -/
def shiftedOutLeft (a : Byte) : Bool := a.getLsbD 7

/-- The result is written to `V[X]` first and the flag to VF last, so that the flag wins when X = 0xF (43_alu.md R199, the spec's
decision D10; log entry 8). -/
def State.setResultThenFlag (s : State) (x : Reg) (r : Byte) (flag : Bool) : State := (s.setReg x r).setFlag flag

end Sys2Proof.Machine
end

