-- ==== Sys2Proof/Machine/Alu.lean ====
section
/-! DEFINITION. The ALU group 8XY_ (43_alu.md). Both operands are read before any write (R199). -/

namespace Sys2Proof.Machine

/-- LD Vx, Vy (R190). -/
def execLdVxVy (x y : Reg) (s : State) : Out := .next (s.setReg x (s.reg y))

/-- OR Vx, Vy (R191); VF is not written (R201). -/
def execOrVxVy (x y : Reg) (s : State) : Out := .next (s.setReg x (s.reg x ||| s.reg y))

/-- AND Vx, Vy (R192); VF is not written (R201). -/
def execAndVxVy (x y : Reg) (s : State) : Out := .next (s.setReg x (s.reg x &&& s.reg y))

/-- XOR Vx, Vy (R193); VF is not written (R201). -/
def execXorVxVy (x y : Reg) (s : State) : Out := .next (s.setReg x (s.reg x ^^^ s.reg y))

/-- ADD Vx, Vy (R194): VF = carry. -/
def execAddVxVy (x y : Reg) (s : State) : Out :=
  .next (s.setResultThenFlag x (s.reg x + s.reg y) (carryOut (s.reg x) (s.reg y)))

/-- SUB Vx, Vy (R195): VF = 1 if no borrow. -/
def execSubVxVy (x y : Reg) (s : State) : Out :=
  .next (s.setResultThenFlag x (s.reg x - s.reg y) (noBorrow (s.reg x) (s.reg y)))

/-- SHR Vx, Vy (R196): the operand is chosen by SHIFT_SOURCE (R200); VF = the bit shifted out. -/
def execShrVxVy (x y : Reg) (s : State) : Out :=
  .next (s.setResultThenFlag x (s.shiftOperand x y >>> 1) (shiftedOutRight (s.shiftOperand x y)))

/-- SUBN Vx, Vy (R197): Y minus X; VF = 1 if no borrow. -/
def execSubnVxVy (x y : Reg) (s : State) : Out :=
  .next (s.setResultThenFlag x (s.reg y - s.reg x) (noBorrow (s.reg y) (s.reg x)))

/-- SHL Vx, Vy (R198): the operand is chosen by SHIFT_SOURCE (R200); VF = the bit shifted out. -/
def execShlVxVy (x y : Reg) (s : State) : Out :=
  .next (s.setResultThenFlag x (s.shiftOperand x y <<< 1) (shiftedOutLeft (s.shiftOperand x y)))

end Sys2Proof.Machine
end

