-- ==== Sys2Proof/Machine/ControlFlow.lean ====
section
/-! DEFINITION. Jumps, calls, returns and skips (41_control_flow.md), and the no-op outcome (30_encoding.md R92). `pc` already
holds the advanced address when a meaning runs (30_encoding.md R85). -/

namespace Sys2Proof.Machine

/-- RET (R140): an empty stack abandons the instruction. -/
def execRet (s : State) : Out :=
  match s.pop? with
  | some (a, t) => .next (t.setPc a)
  | none => .next (s.raise .stackUnderflow)

/-- JP nnn (R141). -/
def execJp (nnn : Addr) (s : State) : Out := .next (s.setPc (zextAddr nnn))

/-- CALL nnn (R142): pushes the advanced pc; a full stack abandons the instruction. -/
def execCall (nnn : Addr) (s : State) : Out :=
  match s.push? s.pc with
  | some t => .next (t.setPc (zextAddr nnn))
  | none => .next (s.raise .stackOverflow)

/-- SE Vx, nn (R143). -/
def execSeVxNn (x : Reg) (nn : Byte) (s : State) : Out := .next (s.skipIf (s.reg x == nn))

/-- SNE Vx, nn (R144). -/
def execSneVxNn (x : Reg) (nn : Byte) (s : State) : Out := .next (s.skipIf (s.reg x != nn))

/-- SE Vx, Vy (R145). -/
def execSeVxVy (x y : Reg) (s : State) : Out := .next (s.skipIf (s.reg x == s.reg y))

/-- SNE Vx, Vy (R146). -/
def execSneVxVy (x y : Reg) (s : State) : Out := .next (s.skipIf (s.reg x != s.reg y))

/-- JP V0, nnn (R147): always register 0. -/
def execJpV0Nnn (nnn : Addr) (s : State) : Out := .next (s.setPc (s.jumpOffset nnn))

/-- An unassigned word (30_encoding.md R92): "Its execute part changes no state and raises no fault." -/
def execUnassigned (_w : Word) (s : State) : Out := .next s

end Sys2Proof.Machine
end

