-- ==== Sys2Proof/Machine/Display.lean ====
section
/-! DEFINITION. The display instructions (40_display.md): CLS and DRW. -/

namespace Sys2Proof.Machine

/-- CLS (R120): every pixel OFF. -/
def execCls (s : State) : Out := .next { s with video := Screen.blank }

/-- The pixel a sprite bit at column `px` and row `py` falls on, under DRAW_EDGE (R122): none where it is clipped. -/
def pixelIndex? (e : DrawEdge) (px py : Nat) : Option (Fin 2048) :=
  match e with
  | .wrap => some ⟨px % 64 + py % 32 * 64, by omega⟩
  | .clip => if h : px < 64 ∧ py < 32 then some ⟨px + py * 64, by omega⟩ else none

/-- One column of a sprite row (R121): a 1 bit toggles its pixel, and toggling a pixel that was ON is a collision (R124).
Bit 7 of the row byte is the leftmost column (R123, general knowledge, the spec's decision D12; log entry 9). -/
def drawColumn (x0 py : Nat) (row : Byte) (d : State × Bool) (c : Nat) : State × Bool :=
  if row.getLsbD (7 - c) then
    match pixelIndex? d.1.cfg.drawEdge (x0 + c) py with
    | some p => (d.1.togglePixel p, d.2 || d.1.pixel p)
    | none => d
  else d

/-- One row of a sprite (R121): its byte is read, even where all its pixels are clipped (the spec's decision D13), and its eight
columns are drawn left to right. -/
def drawRow (base x0 y0 : Nat) (d : State × Bool) (r : Nat) : State × Bool :=
  (List.range 8).foldl (drawColumn x0 (y0 + r) (memRead (base + r) d.1).1) ((memRead (base + r) d.1).2, d.2)

/-- The `n` rows of a sprite, top to bottom, and whether a pixel was erased. -/
def drawSprite (base x0 y0 n : Nat) (s : State) : State × Bool :=
  (List.range n).foldl (drawRow base x0 y0) (s, false)

/-- DRW Vx, Vy, n (R121): coordinates are read first, VF is written after all pixels. `I` is not changed. -/
def execDrw (x y : Reg) (n : Fin 16) (s : State) : Out :=
  let d := drawSprite s.I.toNat (s.originX x) (s.originY y) n.val s
  .next (d.1.setFlag d.2)

end Sys2Proof.Machine
end

