-- ==== Sys2Proof/Machine/IndexMemory.lean ====
section
/-! DEFINITION. The index and memory instructions (45_index_memory.md). Every access goes through `memRead` or `memWrite`, at an
exact address `I + k` (20_memory.md R55), one byte at a time in ascending order (20_memory.md R58). -/

namespace Sys2Proof.Machine

/-- ADD I, Vx (R250): mod 2^16, no flag. -/
def execAddIVx (x : Reg) (s : State) : Out := .next (s.setI (s.indexPlus (s.reg x).toNat))

/-- LD F, Vx (R251). -/
def execLdFVx (x : Reg) (s : State) : Out := .next (s.setI (glyphAddr (s.reg x)))

/-- Writes bytes at rising addresses from `a` up, each checked on its own. -/
def writeBytes : Nat → List Byte → State → State
  | _, [], s => s
  | a, b :: bs, s => writeBytes (a + 1) bs (memWrite a b s)

/-- LD B, Vx (R252): three digits, most significant first; I is not changed. -/
def execLdBVx (x : Reg) (s : State) : Out := .next (writeBytes (s.effAddr 0) (bcdDigits (s.reg x)) s)

/-- The loop of FX55 (R253) over a list of registers: `MemWrite(base + i, 1, V[i])`. -/
def storeRegs (base : Nat) (rs : List Reg) (s : State) : State :=
  rs.foldl (fun t r => memWrite (base + r.val) (t.reg r) t) s

/-- The loop of FX65 (R254) over a list of registers: `V[i] <- MemRead(base + i, 1)`. -/
def loadRegs (base : Nat) (rs : List Reg) (s : State) : State :=
  rs.foldl (fun t r => (memRead (base + r.val) t).2.setReg r (memRead (base + r.val) t).1) s

/-- LD [I], Vx (R253): stores V0 to Vx, then `I <- (I + X + 1) mod 2^16`. -/
def execLdMemVx (x : Reg) (s : State) : Out :=
  .next ((storeRegs (s.effAddr 0) (regsThrough x) s).setI (s.indexPlus (x.val + 1)))

/-- LD Vx, [I] (R254): loads V0 to Vx, then `I <- (I + X + 1) mod 2^16`. -/
def execLdVxMem (x : Reg) (s : State) : Out :=
  .next ((loadRegs (s.effAddr 0) (regsThrough x) s).setI (s.indexPlus (x.val + 1)))

end Sys2Proof.Machine
end

