-- ==== Sys2Proof/Machine/KeysTimers.lean ====
section
/-! DEFINITION. The key and timer instructions (44_keys_timers.md). -/

namespace Sys2Proof.Machine

/-- SKP Vx (R220): the key index is V[X], bounds-checked by `keyRead` (R222). -/
def execSkp (x : Reg) (s : State) : Out :=
  .next ((keyRead (s.reg x) s).2.skipIf (keyRead (s.reg x) s).1)

/-- SKNP Vx (R221). -/
def execSknp (x : Reg) (s : State) : Out :=
  .next ((keyRead (s.reg x) s).2.skipIf (!(keyRead (s.reg x) s).1))

/-- LD Vx, DT (R223): the value from before this step's tick. -/
def execLdVxDt (x : Reg) (s : State) : Out := .next (s.setReg x s.DT)

/-- The key taken by FX0A: its index to V[X], and its latch bit cleared when FX0A_CLEARS_KEY (R224). -/
def takeKey (x : Reg) (k : Fin 16) (s : State) : State :=
  let t := s.setReg x (BitVec.ofNat 8 k.val)
  if s.cfg.fx0aClearsKey then t.clearKey k else t

/-- LD Vx, K (R224): the lowest key that is down, or else pc goes back to this instruction. -/
def execLdVxK (x : Reg) (s : State) : Out :=
  match s.firstKeyDown? with
  | some k => .next (takeKey x k s)
  | none => .next (s.setPc (s.pc - 2))

/-- LD DT, Vx (R225); the step's tick follows. -/
def execLdDtVx (x : Reg) (s : State) : Out := .next (s.setDT (s.reg x))

/-- LD ST, Vx (R226); the step's tick follows. -/
def execLdStVx (x : Reg) (s : State) : Out := .next (s.setST (s.reg x))

end Sys2Proof.Machine
end

