-- ==== Sys2Proof/Machine/RegisterImmediate.lean ====
section
/-! DEFINITION. The register and immediate instructions (42_register_immediate.md). -/

namespace Sys2Proof.Machine

/-- LD Vx, nn (R170). -/
def execLdVxNn (x : Reg) (nn : Byte) (s : State) : Out := .next (s.setReg x nn)

/-- ADD Vx, nn (R171): mod 256, no flag. -/
def execAddVxNn (x : Reg) (nn : Byte) (s : State) : Out := .next (s.setReg x (s.reg x + nn))

/-- LD I, nnn (R172). -/
def execLdINnn (nnn : Addr) (s : State) : Out := .next (s.setI (zextAddr nnn))

/-- RND Vx, nn (R173): the step's random byte AND the mask. -/
def execRndVxNn (x : Reg) (nn : Byte) (s : State) : Out := .next (s.setReg x (s.rand &&& nn))

end Sys2Proof.Machine
end

