-- ==== Sys2Proof/Syntax.lean ====
section
/-! DEFINITION. The instructions: one constructor per row of spec/opcode_table.json (30_encoding.md R93), the default no-op row included. -/

namespace Sys2Proof

/-- The instructions. Operands are the fields the instruction's rule names (30_encoding.md R81, R82); a field the decoder ignores
(w[11:4] of 0nn0 and 0nnE, w[3:0] of 5XYn and 9XYn, R87 and R91) is no operand. -/
inductive Instr
  /-- `0nn0` CLS (R120) -/
  | cls
  /-- `0nnE` RET (R140) -/
  | ret
  /-- `1NNN` JP nnn (R141) -/
  | jp (nnn : Addr)
  /-- `2NNN` CALL nnn (R142) -/
  | call (nnn : Addr)
  /-- `3XNN` SE Vx, nn (R143) -/
  | seVxNn (x : Reg) (nn : Byte)
  /-- `4XNN` SNE Vx, nn (R144) -/
  | sneVxNn (x : Reg) (nn : Byte)
  /-- `5XYn` SE Vx, Vy (R145) -/
  | seVxVy (x y : Reg)
  /-- `6XNN` LD Vx, nn (R170) -/
  | ldVxNn (x : Reg) (nn : Byte)
  /-- `7XNN` ADD Vx, nn (R171) -/
  | addVxNn (x : Reg) (nn : Byte)
  /-- `8XY0` LD Vx, Vy (R190) -/
  | ldVxVy (x y : Reg)
  /-- `8XY1` OR Vx, Vy (R191) -/
  | orVxVy (x y : Reg)
  /-- `8XY2` AND Vx, Vy (R192) -/
  | andVxVy (x y : Reg)
  /-- `8XY3` XOR Vx, Vy (R193) -/
  | xorVxVy (x y : Reg)
  /-- `8XY4` ADD Vx, Vy (R194) -/
  | addVxVy (x y : Reg)
  /-- `8XY5` SUB Vx, Vy (R195) -/
  | subVxVy (x y : Reg)
  /-- `8XY6` SHR Vx, Vy (R196) -/
  | shrVxVy (x y : Reg)
  /-- `8XY7` SUBN Vx, Vy (R197) -/
  | subnVxVy (x y : Reg)
  /-- `8XYE` SHL Vx, Vy (R198) -/
  | shlVxVy (x y : Reg)
  /-- `9XYn` SNE Vx, Vy (R146) -/
  | sneVxVy (x y : Reg)
  /-- `ANNN` LD I, nnn (R172) -/
  | ldINnn (nnn : Addr)
  /-- `BNNN` JP V0, nnn (R147) -/
  | jpV0Nnn (nnn : Addr)
  /-- `CXNN` RND Vx, nn (R173) -/
  | rndVxNn (x : Reg) (nn : Byte)
  /-- `DXYN` DRW Vx, Vy, n (R121) -/
  | drw (x y : Reg) (n : Fin 16)
  /-- `EX9E` SKP Vx (R220) -/
  | skp (x : Reg)
  /-- `EXA1` SKNP Vx (R221) -/
  | sknp (x : Reg)
  /-- `FX07` LD Vx, DT (R223) -/
  | ldVxDt (x : Reg)
  /-- `FX0A` LD Vx, K (R224) -/
  | ldVxK (x : Reg)
  /-- `FX15` LD DT, Vx (R225) -/
  | ldDtVx (x : Reg)
  /-- `FX18` LD ST, Vx (R226) -/
  | ldStVx (x : Reg)
  /-- `FX1E` ADD I, Vx (R250) -/
  | addIVx (x : Reg)
  /-- `FX29` LD F, Vx (R251) -/
  | ldFVx (x : Reg)
  /-- `FX33` LD B, Vx (R252) -/
  | ldBVx (x : Reg)
  /-- `FX55` LD [I], Vx (R253) -/
  | ldMemVx (x : Reg)
  /-- `FX65` LD Vx, [I] (R254) -/
  | ldVxMem (x : Reg)
  /-- any word no other row matches: the no-op outcome (R92); it carries the word so that it can be encoded again -/
  | unassigned (w : Word)
  deriving DecidableEq, Repr

end Sys2Proof
end

