-- ==== Sys2Proof/WellFormed.lean ====
section
/-! DEFINITION. Well-formed instructions. Register indices and fields are in range by their types (10_state.md R21), so the one
check left is that the word of the no-op outcome is one of the unassigned words that 30_encoding.md R92 lists. -/

namespace Sys2Proof

/-- The nibble w[15:12]. -/
abbrev nibble3 (w : Word) : Nat := w.toNat / 4096

/-- The nibble w[3:0]. -/
abbrev nibble0 (w : Word) : Nat := w.toNat % 16

/-- The byte w[7:0]. -/
abbrev lowByte (w : Word) : Nat := w.toNat % 256

/-- R92, first item: group 0 with w[3:0] not 0x0 or 0xE. -/
def unassignedGroup0 (w : Word) : Bool :=
  nibble3 w == 0x0 && !(nibble0 w == 0x0 || nibble0 w == 0xE)

/-- R92, second item: group 8 with w[3:0] in 0x8 to 0xD or 0xF. -/
def unassignedGroup8 (w : Word) : Bool :=
  nibble3 w == 0x8 && ((decide (0x8 ≤ nibble0 w) && decide (nibble0 w ≤ 0xD)) || nibble0 w == 0xF)

/-- R92, third item: group E with w[7:0] not 0x9E or 0xA1. -/
def unassignedGroupE (w : Word) : Bool :=
  nibble3 w == 0xE && !(lowByte w == 0x9E || lowByte w == 0xA1)

/-- R92, fourth item: group F with w[7:0] not among the nine bytes of R90. -/
def unassignedGroupF (w : Word) : Bool :=
  nibble3 w == 0xF && !([0x07, 0x0A, 0x15, 0x18, 0x1E, 0x29, 0x33, 0x55, 0x65].contains (lowByte w))

/-- The unassigned words, as 30_encoding.md R92 lists them. -/
def isUnassigned (w : Word) : Bool :=
  unassignedGroup0 w || unassignedGroup8 w || unassignedGroupE w || unassignedGroupF w

/-- An instruction that some word stands for. -/
def Instr.wf : Instr → Bool
  | .unassigned w => isUnassigned w
  | .cls | .ret => true
  | .jp _ | .call _ | .ldINnn _ | .jpV0Nnn _ => true
  | .seVxNn _ _ | .sneVxNn _ _ | .ldVxNn _ _ | .addVxNn _ _ | .rndVxNn _ _ => true
  | .seVxVy _ _ | .sneVxVy _ _ | .ldVxVy _ _ | .orVxVy _ _ | .andVxVy _ _ | .xorVxVy _ _ => true
  | .addVxVy _ _ | .subVxVy _ _ | .shrVxVy _ _ | .subnVxVy _ _ | .shlVxVy _ _ => true
  | .drw _ _ _ => true
  | .skp _ | .sknp _ | .ldVxDt _ | .ldVxK _ | .ldDtVx _ | .ldStVx _ => true
  | .addIVx _ | .ldFVx _ | .ldBVx _ | .ldMemVx _ | .ldVxMem _ => true

end Sys2Proof
end

