-- ==== Sys2Proof/Decode.lean ====
section
/-! DEFINITION. The decoder (30_encoding.md R86 to R92), total on any bytes, the encoder written from the same encodings, and the
opcode table's rows (R93) as data. -/

namespace Sys2Proof

/-! ## Fields of a word (R81) -/

/-- The group, w[15:12]. -/
def groupOf (w : Word) : BitVec 4 := w.extractLsb' 12 4

/-- X, w[11:8], a register index. -/
def fieldX (w : Word) : Reg := (w.extractLsb' 8 4).toFin

/-- Y, w[7:4], a register index. -/
def fieldY (w : Word) : Reg := (w.extractLsb' 4 4).toFin

/-- N, w[3:0], as the dispatch key of groups 0 and 8. -/
def lowNibble (w : Word) : BitVec 4 := w.extractLsb' 0 4

/-- N, w[3:0], as the row count of DXYN. -/
def fieldN (w : Word) : Fin 16 := (lowNibble w).toFin

/-- NN, w[7:0]: an immediate, or the dispatch key of groups E and F. -/
def fieldNn (w : Word) : Byte := w.extractLsb' 0 8

/-- NNN, w[11:0]. -/
def fieldNnn (w : Word) : Addr := w.extractLsb' 0 12

/-! ## The decoder -/

/-- Group 0x0, dispatched on the low nibble alone (R87). -/
def decodeGroup0 (w : Word) : Instr :=
  match lowNibble w with
  | 0x0#4 => .cls
  | 0xE#4 => .ret
  | _ => .unassigned w

/-- Group 0x8, dispatched on the low nibble (R88). -/
def decodeGroup8 (w : Word) : Instr :=
  match lowNibble w with
  | 0x0#4 => .ldVxVy (fieldX w) (fieldY w)
  | 0x1#4 => .orVxVy (fieldX w) (fieldY w)
  | 0x2#4 => .andVxVy (fieldX w) (fieldY w)
  | 0x3#4 => .xorVxVy (fieldX w) (fieldY w)
  | 0x4#4 => .addVxVy (fieldX w) (fieldY w)
  | 0x5#4 => .subVxVy (fieldX w) (fieldY w)
  | 0x6#4 => .shrVxVy (fieldX w) (fieldY w)
  | 0x7#4 => .subnVxVy (fieldX w) (fieldY w)
  | 0xE#4 => .shlVxVy (fieldX w) (fieldY w)
  | _ => .unassigned w

/-- Group 0xE, dispatched on the low byte (R89). -/
def decodeGroupE (w : Word) : Instr :=
  match fieldNn w with
  | 0x9E#8 => .skp (fieldX w)
  | 0xA1#8 => .sknp (fieldX w)
  | _ => .unassigned w

/-- Group 0xF, dispatched on the low byte (R90). -/
def decodeGroupF (w : Word) : Instr :=
  match fieldNn w with
  | 0x07#8 => .ldVxDt (fieldX w)
  | 0x0A#8 => .ldVxK (fieldX w)
  | 0x15#8 => .ldDtVx (fieldX w)
  | 0x18#8 => .ldStVx (fieldX w)
  | 0x1E#8 => .addIVx (fieldX w)
  | 0x29#8 => .ldFVx (fieldX w)
  | 0x33#8 => .ldBVx (fieldX w)
  | 0x55#8 => .ldMemVx (fieldX w)
  | 0x65#8 => .ldVxMem (fieldX w)
  | _ => .unassigned w

/-- The whole decode function of R86: the top nibble first, then a second dispatch in groups 0, 8, E and F.
Every word maps to exactly one instruction; none is refused (R94). -/
def decodeWord (w : Word) : Instr :=
  match groupOf w with
  | 0x0#4 => decodeGroup0 w
  | 0x1#4 => .jp (fieldNnn w)
  | 0x2#4 => .call (fieldNnn w)
  | 0x3#4 => .seVxNn (fieldX w) (fieldNn w)
  | 0x4#4 => .sneVxNn (fieldX w) (fieldNn w)
  | 0x5#4 => .seVxVy (fieldX w) (fieldY w)
  | 0x6#4 => .ldVxNn (fieldX w) (fieldNn w)
  | 0x7#4 => .addVxNn (fieldX w) (fieldNn w)
  | 0x8#4 => decodeGroup8 w
  | 0x9#4 => .sneVxVy (fieldX w) (fieldY w)
  | 0xA#4 => .ldINnn (fieldNnn w)
  | 0xB#4 => .jpV0Nnn (fieldNnn w)
  | 0xC#4 => .rndVxNn (fieldX w) (fieldNn w)
  | 0xD#4 => .drw (fieldX w) (fieldY w) (fieldN w)
  | 0xE#4 => decodeGroupE w
  | _ => decodeGroupF w

/-- The one reason a byte list holds no instruction: it is shorter than the two bytes every instruction takes (R95). -/
inductive DecodeError
  | truncated
  deriving DecidableEq, Repr

/-- Two bytes joined big-endian, the first the high byte (20_memory.md R56). -/
def wordOf (hi lo : Byte) : Word := hi ++ lo

/-- Decoding a byte list: the first two bytes, big-endian, and the bytes that follow. Always consumes exactly 2 bytes (R95). -/
def decode : List Byte → Except DecodeError (Instr × List Byte)
  | hi :: lo :: rest => .ok (decodeWord (wordOf hi lo), rest)
  | _ => .error .truncated

/-! ## The encoder -/

/-- A register index as the four bits of a field. -/
def regBits (x : Fin 16) : BitVec 4 := BitVec.ofFin (w := 4) x

/-- A word of format XNN (R81). -/
def packXNn (g : BitVec 4) (x : Reg) (nn : Byte) : Word := g ++ regBits x ++ nn

/-- A word of format XYN (R81). -/
def packXYN (g : BitVec 4) (x y : Reg) (n : BitVec 4) : Word := g ++ regBits x ++ regBits y ++ n

/-- A word of format NNN (R81). -/
def packNnn (g : BitVec 4) (nnn : Addr) : Word := g ++ nnn

/-- The canonical word of an instruction (R93, column "canonical"). -/
def encodeWord : Instr → Word
  | .cls => 0x00E0#16
  | .ret => 0x00EE#16
  | .jp nnn => packNnn 0x1#4 nnn
  | .call nnn => packNnn 0x2#4 nnn
  | .seVxNn x nn => packXNn 0x3#4 x nn
  | .sneVxNn x nn => packXNn 0x4#4 x nn
  | .seVxVy x y => packXYN 0x5#4 x y 0x0#4
  | .ldVxNn x nn => packXNn 0x6#4 x nn
  | .addVxNn x nn => packXNn 0x7#4 x nn
  | .ldVxVy x y => packXYN 0x8#4 x y 0x0#4
  | .orVxVy x y => packXYN 0x8#4 x y 0x1#4
  | .andVxVy x y => packXYN 0x8#4 x y 0x2#4
  | .xorVxVy x y => packXYN 0x8#4 x y 0x3#4
  | .addVxVy x y => packXYN 0x8#4 x y 0x4#4
  | .subVxVy x y => packXYN 0x8#4 x y 0x5#4
  | .shrVxVy x y => packXYN 0x8#4 x y 0x6#4
  | .subnVxVy x y => packXYN 0x8#4 x y 0x7#4
  | .shlVxVy x y => packXYN 0x8#4 x y 0xE#4
  | .sneVxVy x y => packXYN 0x9#4 x y 0x0#4
  | .ldINnn nnn => packNnn 0xA#4 nnn
  | .jpV0Nnn nnn => packNnn 0xB#4 nnn
  | .rndVxNn x nn => packXNn 0xC#4 x nn
  | .drw x y n => packXYN 0xD#4 x y (regBits n)
  | .skp x => packXNn 0xE#4 x 0x9E#8
  | .sknp x => packXNn 0xE#4 x 0xA1#8
  | .ldVxDt x => packXNn 0xF#4 x 0x07#8
  | .ldVxK x => packXNn 0xF#4 x 0x0A#8
  | .ldDtVx x => packXNn 0xF#4 x 0x15#8
  | .ldStVx x => packXNn 0xF#4 x 0x18#8
  | .addIVx x => packXNn 0xF#4 x 0x1E#8
  | .ldFVx x => packXNn 0xF#4 x 0x29#8
  | .ldBVx x => packXNn 0xF#4 x 0x33#8
  | .ldMemVx x => packXNn 0xF#4 x 0x55#8
  | .ldVxMem x => packXNn 0xF#4 x 0x65#8
  | .unassigned w => w

/-- The high byte of a word, the one at the lower address (20_memory.md R56). -/
def highByte (w : Word) : Byte := w.extractLsb' 8 8

/-- The low byte of a word, the one at the higher address. -/
def lowByteOf (w : Word) : Byte := w.extractLsb' 0 8

/-- The two bytes of an instruction as they stand in memory. -/
def encode (i : Instr) : List Byte := [highByte (encodeWord i), lowByteOf (encodeWord i)]

/-! ## The opcode table's rows -/

/-- A row of spec/opcode_table.json: a word is selected when its masked bits equal `pattern`. -/
structure OpcodeRow where
  mask    : Word
  pattern : Word
  deriving DecidableEq, Repr

/-- The word is one the row selects. -/
def OpcodeRow.selects (r : OpcodeRow) (w : Word) : Bool := w &&& r.mask == r.pattern

/-- The table's row of each instruction: its "mask" and "match". The default row selects every word, and applies only where no
other row does. -/
def Instr.row : Instr → OpcodeRow
  | .cls => ⟨0xF00F#16, 0x0000#16⟩
  | .ret => ⟨0xF00F#16, 0x000E#16⟩
  | .jp _ => ⟨0xF000#16, 0x1000#16⟩
  | .call _ => ⟨0xF000#16, 0x2000#16⟩
  | .seVxNn _ _ => ⟨0xF000#16, 0x3000#16⟩
  | .sneVxNn _ _ => ⟨0xF000#16, 0x4000#16⟩
  | .seVxVy _ _ => ⟨0xF000#16, 0x5000#16⟩
  | .ldVxNn _ _ => ⟨0xF000#16, 0x6000#16⟩
  | .addVxNn _ _ => ⟨0xF000#16, 0x7000#16⟩
  | .ldVxVy _ _ => ⟨0xF00F#16, 0x8000#16⟩
  | .orVxVy _ _ => ⟨0xF00F#16, 0x8001#16⟩
  | .andVxVy _ _ => ⟨0xF00F#16, 0x8002#16⟩
  | .xorVxVy _ _ => ⟨0xF00F#16, 0x8003#16⟩
  | .addVxVy _ _ => ⟨0xF00F#16, 0x8004#16⟩
  | .subVxVy _ _ => ⟨0xF00F#16, 0x8005#16⟩
  | .shrVxVy _ _ => ⟨0xF00F#16, 0x8006#16⟩
  | .subnVxVy _ _ => ⟨0xF00F#16, 0x8007#16⟩
  | .shlVxVy _ _ => ⟨0xF00F#16, 0x800E#16⟩
  | .sneVxVy _ _ => ⟨0xF000#16, 0x9000#16⟩
  | .ldINnn _ => ⟨0xF000#16, 0xA000#16⟩
  | .jpV0Nnn _ => ⟨0xF000#16, 0xB000#16⟩
  | .rndVxNn _ _ => ⟨0xF000#16, 0xC000#16⟩
  | .drw _ _ _ => ⟨0xF000#16, 0xD000#16⟩
  | .skp _ => ⟨0xF0FF#16, 0xE09E#16⟩
  | .sknp _ => ⟨0xF0FF#16, 0xE0A1#16⟩
  | .ldVxDt _ => ⟨0xF0FF#16, 0xF007#16⟩
  | .ldVxK _ => ⟨0xF0FF#16, 0xF00A#16⟩
  | .ldDtVx _ => ⟨0xF0FF#16, 0xF015#16⟩
  | .ldStVx _ => ⟨0xF0FF#16, 0xF018#16⟩
  | .addIVx _ => ⟨0xF0FF#16, 0xF01E#16⟩
  | .ldFVx _ => ⟨0xF0FF#16, 0xF029#16⟩
  | .ldBVx _ => ⟨0xF0FF#16, 0xF033#16⟩
  | .ldMemVx _ => ⟨0xF0FF#16, 0xF055#16⟩
  | .ldVxMem _ => ⟨0xF0FF#16, 0xF065#16⟩
  | .unassigned _ => ⟨0x0000#16, 0x0000#16⟩

/-! ## The host's question -/

/-- What the decoder reads from an instruction whose bits are `w`, numbered as spec/opcode_table.json numbers them: one 16-bit
word, laid out big-endian in memory, so its high byte comes first. Bits from `nbits` up are 0. -/
def decodeTableWord (nbits w : Nat) : Option Instr :=
  let word := BitVec.ofNat 16 (w % 2 ^ nbits)
  match decode [highByte word, lowByteOf word] with
  | .ok (i, _) => some i
  | .error _ => none

end Sys2Proof
end

