-- ==== Sys2Proof/Machine/Fetch.lean ====
section
/-! DEFINITION. Fetching an instruction (30_encoding.md R83 parts 1 and 2): its two bytes, the word they make, the advance of pc. -/

namespace Sys2Proof.Machine

/-- The high byte at `pc`, and the state after reading it. -/
def fetchHi (s : State) : Byte × State := fetchRead s.pc.toNat s

/-- The low byte at `pc + 1`, computed without wrap, and the state after reading it; it is read even when the first read faulted
(30_encoding.md R84). -/
def fetchLo (s : State) : Byte × State := fetchRead (s.pc.toNat + 1) (fetchHi s).2

/-- The fetched word, big-endian (20_memory.md R56). -/
def fetchWord (s : State) : Word := wordOf (fetchHi s).1 (fetchLo s).1

/-- The state with the word in `opcode` and `pc` advanced by 2 mod 2^16, before execution (30_encoding.md R84, R85). -/
def fetchAdvance (s : State) : State :=
  { (fetchLo s).2 with opcode := fetchWord s, pc := s.pc + 2 }

/-- The instruction at `pc`. -/
def fetchedInstr (s : State) : Instr := decodeWord (fetchWord s)

/-- Part 5 of a step (30_encoding.md R83): the timers tick, and the transaction's random byte is used up. -/
def finishStep (s : State) : State := (timerTick s).nextDraw

end Sys2Proof.Machine
end

