-- ==== Sys2Proof/Machine/Step.lean ====
section
/-! DEFINITION. step: one fetch, advance, decode, execute and timer-tick cycle (30_encoding.md R83), and the state in which the
next step runs a given word. -/

namespace Sys2Proof.Machine

/-- One step transaction (30_encoding.md R83): fetch and advance, decode, execute, then tick the timers, whatever the word is. -/
def step (s : State) : Host.Outcome State Fault Refusal :=
  match exec (fetchedInstr s) (fetchAdvance s) with
  | .next t => .next (finishStep t)
  | .fault r => .fault r
  | .refused r => .refused r

/-- The state with an instruction of `nbits` bits `w` where the next step fetches: at `pc`, high byte first. Where `pc` leaves no
room for two bytes in memory (above 0xFFE), no bytes can be fetched there, so pc is first set to 0x200 (log entry 7). -/
def State.withFetchWord (s : State) (nbits w : Nat) : State :=
  let word := BitVec.ofNat 16 (w % 2 ^ nbits)
  let t := if s.pc.toNat ≤ 0xFFE then s else s.setPc 0x0200
  (t.poke t.pc.toNat (highByte word)).poke (t.pc.toNat + 1) (lowByteOf word)

end Sys2Proof.Machine
end

