-- ==== Sys2Proof/Machine/HostPort.lean ====
section
/-! DEFINITION. The host's transactions (00_scope.md R6): construct, load, step(rand), the key latch, the pixel words. They happen
between steps (R7). -/

namespace Sys2Proof.Machine

/-- `construct(font)` (70_reset_and_hazards.md R321): fails unless the font is exactly 80 bytes. The other settings are those of
the configuration given. -/
def hostConstruct (settings : Config) (font : List Byte) : Option State :=
  if h : font.length = 80 then
    some (State.construct { settings with font := ⟨font.toArray, by simpa using h⟩ })
  else none

/-- Places the bytes of an image at rising addresses from `a` up. -/
def placeBytes : Nat → List Byte → State → State
  | _, [], s => s
  | a, b :: bs, s => placeBytes (a + 1) bs (s.poke a b)

/-- `load(image, bound)` (70_reset_and_hazards.md R323): none is FAIL, and then nothing changes (R324). -/
def hostLoad (image : List Byte) (bound : Nat) (s : State) : Option State :=
  if image.length = 0 then none
  else if min bound 3584 < image.length then none
  else some (placeBytes 0x200 image s)

/-- `step(rand)` (30_encoding.md R83): one step with the host's random byte. -/
def stepWith (rand : Byte) (s : State) : Out := step { s with randIn := some rand }

/-- The host's write of the whole key latch, between steps (60_exceptions.md R290). -/
def hostWriteKeys (keys : Vector Bool 16) (s : State) : State := { s with keys := keys }

/-- The host's pixel word (10_state.md R30): PIXEL_BITS wide, all ones for ON and zero for OFF. -/
def hostPixelWord (s : State) (p : Fin 2048) : BitVec s.cfg.pixelBits :=
  if s.pixel p then BitVec.allOnes s.cfg.pixelBits else 0#s.cfg.pixelBits

end Sys2Proof.Machine
end

