-- ==== Sys2Proof/Safety.lean ====
section
/-! DEFINITION. The terms claims use: the invariant, safe and finished states, frames, the access table and the fault table. -/

namespace Sys2Proof.Machine

/-- The invariant of the core (10_state.md R39): memory is in its canonical form (so every listed byte lies in 0x000 to 0xFFF)
and `fault[7:6] = 0`. That `0 ≤ sp ≤ 16` and that every pixel is ON or OFF is in the types. -/
def State.Inv (s : State) : Prop := Memory.wf s.cfg s.mem = true ∧ s.fault &&& 0xC0#8 = 0#8

/-- A safe state: no execution fault has been recorded (70_reset_and_hazards.md R331 asks a claim to say so itself). -/
def State.Safe (s : State) : Prop := s.fault = 0#8

/-- The program is finished: `pc` is the address of a `1NNN` whose NNN is its own address (70_reset_and_hazards.md R331, the
spec's decision D31). -/
def State.AtSelfJump (s : State) : Prop := ∃ nnn : Addr, fetchedInstr s = .jp nnn ∧ nnn.toNat = s.pc.toNat

/-- The parts of the state: the rows of 10_state.md R20, and the model's own three fields. -/
inductive Part
  | V
  | I
  | pc
  | stack
  | sp
  | DT
  | ST
  | mem
  | video
  | keys
  | opcode
  | fault
  | cfg
  | randIn
  | draws
  deriving DecidableEq, Repr

/-- A part reads the same in two states: each register, each byte of memory, each pixel, and so on. -/
def Part.same (s t : State) : Part → Prop
  | .V => ∀ r : Reg, t.reg r = s.reg r
  | .I => t.I = s.I
  | .pc => t.pc = s.pc
  | .stack => ∀ k : Fin 16, t.stack[k.val] = s.stack[k.val]
  | .sp => t.sp = s.sp
  | .DT => t.DT = s.DT
  | .ST => t.ST = s.ST
  | .mem => ∀ a : Nat, t.peek a = s.peek a
  | .video => ∀ p : Fin 2048, t.pixel p = s.pixel p
  | .keys => ∀ k : Fin 16, t.key k = s.key k
  | .opcode => t.opcode = s.opcode
  | .fault => t.fault = s.fault
  | .cfg => t.cfg = s.cfg
  | .randIn => t.randIn = s.randIn
  | .draws => t.draws = s.draws

/-- The frame: every part but the listed ones reads the same. -/
def UnchangedExcept (ps : List Part) (s t : State) : Prop := ∀ p : Part, p ∉ ps → Part.same s t p

/-- The parts an instruction's execute part may write: the "written by" column of 10_state.md R37, read instruction by
instruction; `fault` for the instructions of 60_exceptions.md R281. -/
def writtenParts : Instr → List Part
  | .cls => [.video]
  | .ret => [.sp, .pc, .fault]
  | .jp _ | .jpV0Nnn _ => [.pc]
  | .call _ => [.stack, .sp, .pc, .fault]
  | .seVxNn _ _ | .sneVxNn _ _ | .seVxVy _ _ | .sneVxVy _ _ => [.pc]
  | .ldVxNn _ _ | .addVxNn _ _ | .rndVxNn _ _ => [.V]
  | .ldVxVy _ _ | .orVxVy _ _ | .andVxVy _ _ | .xorVxVy _ _ => [.V]
  | .addVxVy _ _ | .subVxVy _ _ | .shrVxVy _ _ | .subnVxVy _ _ | .shlVxVy _ _ => [.V]
  | .ldINnn _ | .addIVx _ | .ldFVx _ => [.I]
  | .drw _ _ _ => [.V, .video, .fault]
  | .skp _ | .sknp _ => [.pc, .fault]
  | .ldVxDt _ => [.V]
  | .ldVxK _ => [.V, .pc, .keys]
  | .ldDtVx _ => [.DT]
  | .ldStVx _ => [.ST]
  | .ldBVx _ => [.mem, .fault]
  | .ldMemVx _ => [.mem, .I, .fault]
  | .ldVxMem _ => [.V, .I, .fault]
  | .unassigned _ => []

/-- The registers an instruction may write: 10_state.md R37, rows V[x] and V[0xF]; FX65 writes 0..x. -/
def writtenReg : Instr → Reg → Bool
  | .ldVxNn x _, r | .addVxNn x _, r | .rndVxNn x _, r => r == x
  | .ldVxVy x _, r | .orVxVy x _, r | .andVxVy x _, r | .xorVxVy x _, r => r == x
  | .addVxVy x _, r | .subVxVy x _, r | .shrVxVy x _, r | .subnVxVy x _, r | .shlVxVy x _, r => r == x || r == regF
  | .ldVxDt x, r | .ldVxK x, r => r == x
  | .ldVxMem x, r => decide (r ≤ x)
  | .drw _ _ _, r => r == regF
  | .cls, _ | .ret, _ | .jp _, _ | .call _, _ | .jpV0Nnn _, _ => false
  | .seVxNn _ _, _ | .sneVxNn _ _, _ | .seVxVy _ _, _ | .sneVxVy _ _, _ => false
  | .ldINnn _, _ | .addIVx _, _ | .ldFVx _, _ | .ldBVx _, _ | .ldMemVx _, _ => false
  | .skp _, _ | .sknp _, _ | .ldDtVx _, _ | .ldStVx _, _ | .unassigned _, _ => false

/-- When an instruction's execute part raises a cause: the table of 60_exceptions.md R281. FETCH_OOB is raised by the fetch alone. -/
def raises (s : State) : Instr → FaultCause → Prop
  | .call _, .stackOverflow => s.sp.val = 16
  | .ret, .stackUnderflow => s.sp.val = 0
  | .drw _ _ n, .readOob => ∃ r, r < n.val ∧ 0xFFF < s.I.toNat + r
  | .ldVxMem x, .readOob => ∃ r, r ≤ x.val ∧ 0xFFF < s.I.toNat + r
  | .ldBVx _, .writeOob => ∃ r, r < 3 ∧ 0xFFF < s.I.toNat + r
  | .ldMemVx x, .writeOob => ∃ r, r ≤ x.val ∧ 0xFFF < s.I.toNat + r
  | .skp x, .keyOob | .sknp x, .keyOob => 15 < (s.reg x).toNat
  | _, _ => False

/-- The byte an access at a natural address sees: `mem[a]` in range, 0x00 above 0xFFF (20_memory.md R52, R54; the spec's
decisions D3, D5). -/
def State.byteAt (s : State) (a : Nat) : Byte := if a ≤ 0xFFF then s.peek a else 0x00

/-- A bit of the sprite falls on pixel `p` (40_display.md R121, R122, R123): row `r` and column `c` of the sprite, bit `7 - c` of
the byte at `I + r`, at (x0 + c, y0 + r), which WRAP reduces mod 64 and mod 32 and CLIP does not. -/
def State.spriteCovers (s : State) (x y : Reg) (n : Fin 16) (p : Fin 2048) : Prop :=
  ∃ r c : Nat, r < n.val ∧ c < 8 ∧ (s.byteAt (s.I.toNat + r)).getLsbD (7 - c) = true ∧
    (match s.cfg.drawEdge with
     | .clip => s.originX x + c = p.val % 64 ∧ s.originY y + r = p.val / 64
     | .wrap => (s.originX x + c) % 64 = p.val % 64 ∧ (s.originY y + r) % 32 = p.val / 64)

end Sys2Proof.Machine
end

