-- ==== Sys2Proof/Certificates/Slice0/Obligations.lean ====
section
/-! DEFINITION. The statements for the provers, from the numbered rules of spec/. A statement that rests on a decision the spec
marks as its own (92_eei_decisions.md) or on a choice of the model (notes/assumptions) says so in its docstring. -/

open Sys2Proof Sys2Proof.Machine

/-! ## Reset, construction and load -/

/-- 10_state.md R38: every state element after `construct`, for every configuration (so for every FONT), and State.reset is such a
state (for which configuration is the model's choice, log entries 1 and 2, and not stated here). -/
def Obligations.ConstructLeavesTheResetValues : Prop :=
  (∃ cfg : Config, State.reset = State.construct cfg) ∧
  ∀ (cfg : Config) (s : State), s = State.construct cfg →
    (∀ r : Reg, s.reg r = 0x00) ∧ s.I = 0x0000 ∧ s.pc = 0x0200 ∧ (∀ k : Fin 16, s.stack[k.val] = 0x0000) ∧ s.sp.val = 0 ∧
    s.DT = 0x00 ∧ s.ST = 0x00 ∧
    (∀ k : Fin 80, s.peek (0x050 + k.val) = cfg.font[k.val]) ∧
    (∀ a : Nat, a ≤ 0xFFF → (a < 0x050 ∨ 0x09F < a) → s.peek a = 0x00) ∧
    (∀ p : Fin 2048, s.pixel p = false) ∧ (∀ k : Fin 16, s.key k = false) ∧ s.opcode = 0x0000 ∧ s.fault = 0x00

/-- 10_state.md R39 ("They hold after `construct`"): the invariant holds of every constructed state and of State.reset. -/
def Obligations.ConstructedStatesMeetTheInvariant : Prop :=
  State.reset.Inv ∧ ∀ cfg : Config, (State.construct cfg).Inv

/-- 70_reset_and_hazards.md R321 (the FONT parameter is the spec's decision D17): `construct` fails unless the font is exactly 80
bytes, and otherwise puts the bytes at 0x050 and leaves pc at 0x200. -/
def Obligations.ConstructNeedsEightyFontBytes : Prop :=
  ∀ (settings : Config) (font : List Byte),
    (font.length ≠ 80 → hostConstruct settings font = none) ∧
    (font.length = 80 → ∃ s, hostConstruct settings font = some s ∧ s.pc = 0x0200 ∧ s.Inv ∧
      (∀ k : Nat, k < 80 → some (s.peek (0x050 + k)) = font[k]?) ∧
      (∀ a : Nat, a ≤ 0xFFF → (a < 0x050 ∨ 0x09F < a) → s.peek a = 0x00))

/-- 70_reset_and_hazards.md R323 and R324 (rejecting, never truncating, is the spec's decision D19): `load` fails on an empty image
and on one longer than min(bound, 3584); otherwise the image stands at 0x200 and nothing else changed. -/
def Obligations.LoadPlacesTheImageOrFails : Prop :=
  ∀ (image : List Byte) (bound : Nat) (s : State),
    (image.length = 0 → hostLoad image bound s = none) ∧
    (min bound 3584 < image.length → hostLoad image bound s = none) ∧
    (0 < image.length → image.length ≤ min bound 3584 → ∃ t, hostLoad image bound s = some t ∧
      (∀ k : Nat, k < image.length → some (t.peek (0x200 + k)) = image[k]?) ∧
      (∀ a : Nat, (a < 0x200 ∨ 0x200 + image.length ≤ a) → t.peek a = s.peek a) ∧
      UnchangedExcept [.mem] s t ∧ (s.Inv → t.Inv))

/-! ## Encoding -/

/-- 30_encoding.md R93: each instruction's row of the opcode table (its "decode match") selects exactly the words that decode to
it; a word that no row but the default selects decodes to the no-op outcome. -/
def Obligations.DecodeSelectsTheTableRow : Prop :=
  ∀ w : Word,
    (decodeWord w).row.selects w = true ∧
    (∀ j : Instr, (∀ v, j ≠ .unassigned v) → j.row.selects w = true → (decodeWord w).row = j.row) ∧
    ((∃ v, decodeWord w = .unassigned v) ↔ ∀ j : Instr, (∀ v, j ≠ .unassigned v) → j.row.selects w = false)

/-- 30_encoding.md R81: the operands of a decoded instruction are the fields X = w[11:8], Y = w[7:4], N = w[3:0], NN = w[7:0] and
NNN = w[11:0] of its word, as unsigned numbers. -/
def Obligations.DecodedOperandsAreTheFields : Prop :=
  ∀ w : Word, match decodeWord w with
    | .cls | .ret => True
    | .jp nnn | .call nnn | .ldINnn nnn | .jpV0Nnn nnn => nnn.toNat = w.toNat % 4096
    | .seVxNn x nn | .sneVxNn x nn | .ldVxNn x nn | .addVxNn x nn | .rndVxNn x nn =>
      x.val = w.toNat / 256 % 16 ∧ nn.toNat = w.toNat % 256
    | .seVxVy x y | .sneVxVy x y | .ldVxVy x y | .orVxVy x y | .andVxVy x y | .xorVxVy x y | .addVxVy x y | .subVxVy x y
    | .shrVxVy x y | .subnVxVy x y | .shlVxVy x y => x.val = w.toNat / 256 % 16 ∧ y.val = w.toNat / 16 % 16
    | .drw x y n => x.val = w.toNat / 256 % 16 ∧ y.val = w.toNat / 16 % 16 ∧ n.val = w.toNat % 16
    | .skp x | .sknp x | .ldVxDt x | .ldVxK x | .ldDtVx x | .ldStVx x | .addIVx x | .ldFVx x | .ldBVx x | .ldMemVx x
    | .ldVxMem x => x.val = w.toNat / 256 % 16
    | .unassigned v => v = w

/-- 30_encoding.md R92: the words that decode to the no-op outcome are exactly the listed ones; its execute part changes no state
and raises no fault, and its step still writes `opcode`, advances `pc` by 2 and ticks the timers. -/
def Obligations.UnassignedWordsAreNoOps : Prop :=
  (∀ w : Word, decodeWord w = .unassigned w ↔ isUnassigned w = true) ∧
  (∀ (w : Word) (s : State), exec (.unassigned w) s = .next s) ∧
  ∀ s : State, isUnassigned (fetchWord s) = true → ∃ t, step s = .next t ∧
    t.opcode = fetchWord s ∧ t.pc.toNat = (s.pc.toNat + 2) % 65536 ∧
    t.DT.toNat = s.DT.toNat - 1 ∧ t.ST.toNat = s.ST.toNat - 1 ∧
    UnchangedExcept [.DT, .ST, .randIn, .draws] (fetchAdvance s) t

/-- 30_encoding.md R95: every instruction is 2 bytes, a decoder always consumes exactly 2 bytes (and refuses only a list that is
shorter), and a skip always skips exactly 2 bytes. -/
def Obligations.DecoderConsumesTwoBytes : Prop :=
  (∀ bs : List Byte, bs.length < 2 → decode bs = .error .truncated) ∧
  (∀ (hi lo : Byte) (rest : List Byte), ∃ i, decode (hi :: lo :: rest) = .ok (i, rest)) ∧
  (∀ i : Instr, (encode i).length = 2) ∧
  (∀ s : State, s.skip.pc.toNat = (s.pc.toNat + 2) % 65536)

/-- Decode and encode agree (30_encoding.md R81, R93): for every well-formed instruction and every operand value. -/
def Obligations.DecodeOfEncodeIsTheInstruction : Prop :=
  ∀ (i : Instr) (rest : List Byte), i.wf = true → decode (encode i ++ rest) = .ok (i, rest)

/-- 30_encoding.md R87, R91 and R96: decoding yields well-formed instructions only, and the canonical word of what a word decodes
to (its bits w[11:4], or w[3:0], dropped where the decoder ignores them) decodes to the same. -/
def Obligations.CanonicalWordDecodesTheSame : Prop :=
  ∀ w : Word, (decodeWord w).wf = true ∧ decodeWord (encodeWord (decodeWord w)) = decodeWord w

/-- Words written out from 30_encoding.md R93 and 95_test_vectors.md V1 decode to the instructions they stand for. -/
def Obligations.WrittenOutWordsDecode : Prop :=
  decodeWord 0b0000000011100000#16 = .cls ∧ decodeWord 0b0000000111111110#16 = .ret ∧
  decodeWord 0b0001001000110100#16 = .jp 0x234 ∧ decodeWord 0b0110101001111011#16 = .ldVxNn 0xA 0x7B ∧
  decodeWord 0b0101000100100001#16 = .seVxVy 1 2 ∧ decodeWord 0b1000101010111110#16 = .shlVxVy 0xA 0xB ∧
  decodeWord 0b1101000000010010#16 = .drw 0 1 2 ∧ decodeWord 0b1110000110100001#16 = .sknp 1 ∧
  decodeWord 0b1111001000001010#16 = .ldVxK 2 ∧ decodeWord 0b1111001101010101#16 = .ldMemVx 3 ∧
  decodeWord 0b1000101010111000#16 = .unassigned 0x8AB8

/-! ## The step -/

/-- 30_encoding.md R83: a step is the five parts in order, from any state: both FetchReads, the word into `opcode`, the advance by
2, the execution of the decoded instruction, which always answers a next state, and the timer tick (with the model's own count of
the random bytes used). -/
def Obligations.StepRunsTheDecodedInstruction : Prop :=
  ∀ (s s1 : State) (hi lo : Byte × State) (w : Word),
    hi = fetchRead s.pc.toNat s → lo = fetchRead (s.pc.toNat + 1) hi.2 → w = wordOf hi.1 lo.1 →
    s1 = { lo.2 with opcode := w, pc := s.pc + 2 } →
    ∃ t, exec (decodeWord w) s1 = .next t ∧
      step s = .next { t with DT := tick t.DT, ST := tick t.ST, randIn := none, draws := t.draws + 1 }

/-- 20_memory.md R54 and R56, 30_encoding.md R84 and R85: the fetched word is big-endian, a byte above 0xFFF reads as 0x00 and
records FETCH_OOB, and pc advances by 2 mod 2^16. The out-of-range part is the spec's decisions D2, D4, D5, the wrap of pc its
decision D6. -/
def Obligations.FetchIsBigEndianAndZeroPastMemory : Prop :=
  ∀ s : State,
    (fetchWord s).toNat = (s.byteAt s.pc.toNat).toNat * 256 + (s.byteAt (s.pc.toNat + 1)).toNat ∧
    (fetchAdvance s).opcode = fetchWord s ∧ (fetchAdvance s).pc.toNat = (s.pc.toNat + 2) % 65536 ∧
    (fetchAdvance s).fault = (if s.pc.toNat + 1 ≤ 0xFFF then s.fault else s.fault ||| 0x04) ∧
    UnchangedExcept [.opcode, .pc, .fault] s (fetchAdvance s)

/-- 10_state.md R31: every step leaves the fetched word in `opcode`, and no instruction's result depends on an earlier step's
`opcode`: two states that differ in it alone step to the same state. -/
def Obligations.OpcodeHoldsTheFetchedWord : Prop :=
  ∀ s : State, (∃ t, step s = .next t ∧ t.opcode = fetchWord s) ∧ ∀ w : Word, step { s with opcode := w } = step s

/-- 70_reset_and_hazards.md R329: every instruction, on all its operands and from every state, completes in exactly one step; from
no state does the machine stop. -/
def Obligations.EveryStepCompletes : Prop :=
  (∀ (i : Instr) (s : State), ∃ t, exec i s = .next t) ∧ ∀ s : State, ∃ t, step s = .next t

/-- 60_exceptions.md R288: each timer above 0 is decremented by 1 once per step, whichever instruction ran, and stops at 0. FX15
and FX18 set their timer before the tick. -/
def Obligations.TimersTickOncePerStep : Prop :=
  ∀ s : State, ∃ t, step s = .next t ∧
    t.DT.toNat = (match fetchedInstr s with | .ldDtVx x => (s.reg x).toNat | _ => s.DT.toNat) - 1 ∧
    t.ST.toNat = (match fetchedInstr s with | .ldStVx x => (s.reg x).toNat | _ => s.ST.toNat) - 1

/-! ## Whole-machine rules -/

/-- 10_state.md R39: every step keeps the invariant, from every state that meets it. -/
def Obligations.StepKeepsTheInvariant : Prop :=
  ∀ s : State, s.Inv → ∃ t, step s = .next t ∧ t.Inv

/-- 10_state.md R37 (derived there from the instruction rules): every instruction answers a next state in which only the parts and
the registers that the access table's "written by" column names for it have changed; the key latch changes only when
FX0A_CLEARS_KEY is true. -/
def Obligations.InstructionsWriteOnlyWhatTheTableNames : Prop :=
  ∀ (i : Instr) (s : State), ∃ t, exec i s = .next t ∧ UnchangedExcept (writtenParts i) s t ∧
    (∀ r : Reg, writtenReg i r = false → t.reg r = s.reg r) ∧
    (s.cfg.fx0aClearsKey = false → ∀ k : Fin 16, t.key k = s.key k)

/-- 60_exceptions.md R281 (the causes and codes are the spec's decision D2): after an instruction, a cause's bit is set exactly if
it was set before or the instruction raised that cause under the table's condition. For DRW every row r < N counts, a clipped row
too (40_display.md R121; that clipped rows are read is the spec's decision D13, log entry 10), at the exact address I + r, as every
address here is exact (20_memory.md R55; the spec's decision D4, log entry 14). -/
def Obligations.FaultBitsAreRaisedAsTheTableSays : Prop :=
  ∀ (i : Instr) (s : State), ∃ t, exec i s = .next t ∧
    ∀ c : FaultCause, t.fault.getLsbD c.code = true ↔ (s.fault.getLsbD c.code = true ∨ raises s i c)

/-- 60_exceptions.md R280 and 10_state.md R33 (the spec's decision D2): no step clears a fault bit. -/
def Obligations.FaultBitsAreSticky : Prop :=
  ∀ s : State, ∃ t, step s = .next t ∧ ∀ b : Nat, s.fault.getLsbD b = true → t.fault.getLsbD b = true

/-- 10_state.md R37 (derived there), rows ST, opcode and fault: no instruction reads them. Two runs from states that differ in
these alone differ in these alone. -/
def Obligations.NothingReadsSoundTimerOpcodeOrFault : Prop :=
  ∀ (i : Instr) (s : State) (st f : Byte) (w : Word), ∃ t, exec i s = .next t ∧
    ∃ (st' f' : Byte) (w' : Word),
      exec i { s with ST := st, fault := f, opcode := w } = .next { t with ST := st', fault := f', opcode := w' }

/-- 10_state.md R37 (derived there) and 60_exceptions.md R291 (the spec's decision D21): only CXNN reads the random byte, only EX9E,
EXA1 and FX0A read the keys, only DXYN reads the pixels (CLS overwrites them). -/
def Obligations.InputsAreReadOnlyByTheirInstructions : Prop :=
  ∀ (i : Instr) (s : State), ∃ t, exec i s = .next t ∧
    ((∀ x nn, i ≠ .rndVxNn x nn) → ∀ (r : Option Byte) (d : Nat),
      exec i { s with randIn := r, draws := d } = .next { t with randIn := r, draws := d }) ∧
    ((∀ x, i ≠ .skp x) → (∀ x, i ≠ .sknp x) → (∀ x, i ≠ .ldVxK x) → ∀ k : Vector Bool 16,
      exec i { s with keys := k } = .next { t with keys := k }) ∧
    (i ≠ .cls → (∀ x y n, i ≠ .drw x y n) → ∀ v : Screen,
      exec i { s with video := v } = .next { t with video := v })

/-- 70_reset_and_hazards.md R331 (the spec's decision D31): at a self-jump a step leaves every state element unchanged but the
timers and `opcode` (and the model's own two fields of the random byte), and the next state is at the self-jump again. -/
def Obligations.SelfJumpChangesOnlyTimersAndOpcode : Prop :=
  ∀ s : State, s.AtSelfJump → ∃ t, step s = .next t ∧ t.AtSelfJump ∧ t.opcode = fetchWord s ∧
    UnchangedExcept [.DT, .ST, .opcode, .randIn, .draws] s t

/-- 20_memory.md R65 (derived there): a store is seen by the next fetch. An FX55 whose I points at the next instruction makes V0
and V1 the bytes the next step fetches. -/
def Obligations.StoresAreSeenByTheNextFetch : Prop :=
  ∀ (s : State) (x : Reg), fetchedInstr s = .ldMemVx x → s.I = s.pc + 2 → s.I.toNat + 1 ≤ 0xFFF →
    ∃ t, step s = .next t ∧ t.opcode = fetchWord s ∧ (fetchHi t).1 = s.reg 0 ∧
      (1 ≤ x.val → fetchedInstr t = decodeWord (wordOf (s.reg 0) (s.reg 1)))

/-- The model's own placement of a word where the next step fetches (log entry 7): the next step runs that word's instruction, from
every state, one whose pc lies outside memory included. -/
def Obligations.PlacedWordIsTheNextInstruction : Prop :=
  ∀ (s : State) (w : Nat), fetchedInstr (s.withFetchWord 16 w) = decodeWord (BitVec.ofNat 16 w)

/-- 10_state.md R30 (PIXEL_BITS is the spec's decision D20): the host's pixel word is all ones for ON and zero for OFF, bit by bit,
at every width. -/
def Obligations.HostPixelWordIsAllOnesOrZero : Prop :=
  ∀ (s : State) (p : Fin 2048) (k : Nat), k < s.cfg.pixelBits → (hostPixelWord s p).getLsbD k = s.pixel p

/-! ## Control flow -/

/-- 41_control_flow.md R141: `1NNN` sets pc to NNN and changes nothing else. -/
def Obligations.JpSetsPc : Prop :=
  (∀ w : Word, w.toNat / 4096 = 0x1 → ∃ nnn, decodeWord w = .jp nnn ∧ nnn.toNat = w.toNat % 4096) ∧
  ∀ (nnn : Addr) (s : State), ∃ t, exec (.jp nnn) s = .next t ∧ t.pc.toNat = nnn.toNat ∧ UnchangedExcept [.pc] s t

/-- 41_control_flow.md R147: `BNNN` sets pc to NNN + V[0], always register 0, not reduced, and changes nothing else. -/
def Obligations.JpV0AddsRegisterZero : Prop :=
  (∀ w : Word, w.toNat / 4096 = 0xB → ∃ nnn, decodeWord w = .jpV0Nnn nnn ∧ nnn.toNat = w.toNat % 4096) ∧
  ∀ (nnn : Addr) (s : State), ∃ t, exec (.jpV0Nnn nnn) s = .next t ∧
    t.pc.toNat = nnn.toNat + (s.reg 0).toNat ∧ UnchangedExcept [.pc] s t

/-- 41_control_flow.md R143, R144, R145, R146: the four comparing skips, on any word of their groups, whatever w[3:0] is in groups
5 and 9; a taken skip adds 2 to the advanced pc mod 2^16, and nothing else changes. -/
def Obligations.ComparingSkipsSkipTwoBytes : Prop :=
  (∀ w : Word,
    (w.toNat / 4096 = 0x3 → ∃ x nn, decodeWord w = .seVxNn x nn ∧ x.val = w.toNat / 256 % 16 ∧ nn.toNat = w.toNat % 256) ∧
    (w.toNat / 4096 = 0x4 → ∃ x nn, decodeWord w = .sneVxNn x nn ∧ x.val = w.toNat / 256 % 16 ∧ nn.toNat = w.toNat % 256) ∧
    (w.toNat / 4096 = 0x5 → ∃ x y, decodeWord w = .seVxVy x y ∧ x.val = w.toNat / 256 % 16 ∧ y.val = w.toNat / 16 % 16) ∧
    (w.toNat / 4096 = 0x9 → ∃ x y, decodeWord w = .sneVxVy x y ∧ x.val = w.toNat / 256 % 16 ∧ y.val = w.toNat / 16 % 16)) ∧
  ∀ (s : State) (x y : Reg) (nn : Byte),
    (∃ t, exec (.seVxNn x nn) s = .next t ∧ UnchangedExcept [.pc] s t ∧
      t.pc.toNat = (if s.reg x = nn then (s.pc.toNat + 2) % 65536 else s.pc.toNat)) ∧
    (∃ t, exec (.sneVxNn x nn) s = .next t ∧ UnchangedExcept [.pc] s t ∧
      t.pc.toNat = (if s.reg x = nn then s.pc.toNat else (s.pc.toNat + 2) % 65536)) ∧
    (∃ t, exec (.seVxVy x y) s = .next t ∧ UnchangedExcept [.pc] s t ∧
      t.pc.toNat = (if s.reg x = s.reg y then (s.pc.toNat + 2) % 65536 else s.pc.toNat)) ∧
    (∃ t, exec (.sneVxVy x y) s = .next t ∧ UnchangedExcept [.pc] s t ∧
      t.pc.toNat = (if s.reg x = s.reg y then s.pc.toNat else (s.pc.toNat + 2) % 65536))

/-- 41_control_flow.md R140 (abandoning a RET on an empty stack is the spec's decision D8): any word 0nnE; the entry is not cleared
by the pop. -/
def Obligations.RetPopsOrRecordsUnderflow : Prop :=
  (∀ w : Word, w.toNat / 4096 = 0x0 → w.toNat % 16 = 0xE → decodeWord w = .ret) ∧
  ∀ s : State,
    (s.sp.val = 0 → ∃ t, exec .ret s = .next t ∧ t.fault = s.fault ||| 0x02 ∧ UnchangedExcept [.fault] s t) ∧
    (∀ k : Fin 16, s.sp.val = k.val + 1 → ∃ t, exec .ret s = .next t ∧
      t.sp.val = k.val ∧ t.pc = s.stack[k.val] ∧ UnchangedExcept [.sp, .pc] s t)

/-- 41_control_flow.md R142 (abandoning a CALL on a full stack is the spec's decision D7): the advanced pc is pushed. -/
def Obligations.CallPushesOrRecordsOverflow : Prop :=
  (∀ w : Word, w.toNat / 4096 = 0x2 → ∃ nnn, decodeWord w = .call nnn ∧ nnn.toNat = w.toNat % 4096) ∧
  ∀ (s : State) (nnn : Addr),
    (s.sp.val = 16 → ∃ t, exec (.call nnn) s = .next t ∧ t.fault = s.fault ||| 0x01 ∧ UnchangedExcept [.fault] s t) ∧
    (∀ k : Fin 16, s.sp.val = k.val → ∃ t, exec (.call nnn) s = .next t ∧
      t.stack[k.val] = s.pc ∧ (∀ j : Fin 16, j ≠ k → t.stack[j.val] = s.stack[j.val]) ∧
      t.sp.val = k.val + 1 ∧ t.pc.toNat = nnn.toNat ∧ UnchangedExcept [.stack, .sp, .pc] s t)

/-- 95_test_vectors.md W4: a RET that finds the stack as the CALL left it comes back to the instruction following the CALL. -/
def Obligations.RetReturnsBehindTheCall : Prop :=
  ∀ (s : State) (nnn : Addr), s.sp.val < 16 → ∃ t, exec (.call nnn) s = .next t ∧
    ∀ u : State, u.sp = t.sp → (∀ k : Fin 16, u.stack[k.val] = t.stack[k.val]) →
      ∃ v, exec .ret u = .next v ∧ v.pc = s.pc ∧ v.sp = s.sp

/-! ## Registers and immediates -/

/-- 42_register_immediate.md R170 and R171: LD Vx, nn and ADD Vx, nn write V[X] alone (VF only when X = 0xF, with the value, no
flag); the sum is mod 256. -/
def Obligations.ImmediateLoadAndAddWriteOneRegister : Prop :=
  (∀ w : Word,
    (w.toNat / 4096 = 0x6 → ∃ x nn, decodeWord w = .ldVxNn x nn ∧ x.val = w.toNat / 256 % 16 ∧ nn.toNat = w.toNat % 256) ∧
    (w.toNat / 4096 = 0x7 → ∃ x nn, decodeWord w = .addVxNn x nn ∧ x.val = w.toNat / 256 % 16 ∧ nn.toNat = w.toNat % 256)) ∧
  ∀ (s : State) (x : Reg) (nn : Byte),
    (∃ t, exec (.ldVxNn x nn) s = .next t ∧ t.reg x = nn ∧ (∀ r, r ≠ x → t.reg r = s.reg r) ∧ UnchangedExcept [.V] s t) ∧
    (∃ t, exec (.addVxNn x nn) s = .next t ∧ (t.reg x).toNat = ((s.reg x).toNat + nn.toNat) % 256 ∧
      (∀ r, r ≠ x → t.reg r = s.reg r) ∧ UnchangedExcept [.V] s t)

/-- 42_register_immediate.md R172: `ANNN` writes I with the 12-bit value, zero-extended. -/
def Obligations.LdIWritesTheIndex : Prop :=
  (∀ w : Word, w.toNat / 4096 = 0xA → ∃ nnn, decodeWord w = .ldINnn nnn ∧ nnn.toNat = w.toNat % 4096) ∧
  ∀ (nnn : Addr) (s : State), ∃ t, exec (.ldINnn nnn) s = .next t ∧ t.I.toNat = nnn.toNat ∧ UnchangedExcept [.I] s t

/-- 42_register_immediate.md R173 (the free byte per step is the spec's decision D21): CXNN writes rand AND NN, for every value of
the random byte, and a step(rand) transaction uses the byte it is given. -/
def Obligations.RndMasksTheRandomByte : Prop :=
  (∀ w : Word, w.toNat / 4096 = 0xC → ∃ x nn, decodeWord w = .rndVxNn x nn ∧ x.val = w.toNat / 256 % 16 ∧ nn.toNat = w.toNat % 256) ∧
  (∀ (s : State) (x : Reg) (nn : Byte), ∃ t, exec (.rndVxNn x nn) s = .next t ∧ t.reg x = s.rand &&& nn ∧
    (∀ r, r ≠ x → t.reg r = s.reg r) ∧ UnchangedExcept [.V] s t) ∧
  ∀ (s : State) (rand : Byte) (x : Reg) (nn : Byte), fetchedInstr s = .rndVxNn x nn →
    ∃ t, stepWith rand s = .next t ∧ t.reg x = rand &&& nn ∧ ∀ r, r ≠ x → t.reg r = s.reg r

/-! ## ALU -/

/-- 43_alu.md R190, R191, R192, R193: copy, OR, AND and XOR write V[X] alone; VF is written only when X = 0xF. -/
def Obligations.CopyAndLogicWriteOneRegister : Prop :=
  (∀ w : Word, w.toNat / 4096 = 0x8 → ∀ (x y : Reg), x.val = w.toNat / 256 % 16 → y.val = w.toNat / 16 % 16 →
    (w.toNat % 16 = 0x0 → decodeWord w = .ldVxVy x y) ∧ (w.toNat % 16 = 0x1 → decodeWord w = .orVxVy x y) ∧
    (w.toNat % 16 = 0x2 → decodeWord w = .andVxVy x y) ∧ (w.toNat % 16 = 0x3 → decodeWord w = .xorVxVy x y)) ∧
  ∀ (s : State) (x y : Reg),
    (∃ t, exec (.ldVxVy x y) s = .next t ∧ t.reg x = s.reg y ∧ (∀ r, r ≠ x → t.reg r = s.reg r) ∧ UnchangedExcept [.V] s t) ∧
    (∃ t, exec (.orVxVy x y) s = .next t ∧ t.reg x = s.reg x ||| s.reg y ∧
      (∀ r, r ≠ x → t.reg r = s.reg r) ∧ UnchangedExcept [.V] s t) ∧
    (∃ t, exec (.andVxVy x y) s = .next t ∧ t.reg x = s.reg x &&& s.reg y ∧
      (∀ r, r ≠ x → t.reg r = s.reg r) ∧ UnchangedExcept [.V] s t) ∧
    (∃ t, exec (.xorVxVy x y) s = .next t ∧ t.reg x = s.reg x ^^^ s.reg y ∧
      (∀ r, r ≠ x → t.reg r = s.reg r) ∧ UnchangedExcept [.V] s t)

/-- 43_alu.md R194 and R199 (that the flag wins when X = 0xF is the spec's decision D10): V[X] gets the sum mod 256, VF its ninth
bit; with X = 0xF, VF holds the flag. -/
def Obligations.AddSetsCarry : Prop :=
  ∀ (s : State) (x y : Reg), ∃ t, exec (.addVxVy x y) s = .next t ∧
    (t.reg 15).toNat = (if 255 < (s.reg x).toNat + (s.reg y).toNat then 1 else 0) ∧
    (x ≠ 15 → (t.reg x).toNat = ((s.reg x).toNat + (s.reg y).toNat) % 256) ∧
    (∀ r, r ≠ x → r ≠ 15 → t.reg r = s.reg r) ∧ UnchangedExcept [.V] s t

/-- 43_alu.md R195, R197 and R199 (that the flag wins when X = 0xF is the spec's decision D10): the differences mod 256, and VF = 1
when there is no borrow, equality included. -/
def Obligations.SubtractionsSetNoBorrow : Prop :=
  ∀ (s : State) (x y : Reg),
    (∃ t, exec (.subVxVy x y) s = .next t ∧
      (t.reg 15).toNat = (if (s.reg y).toNat ≤ (s.reg x).toNat then 1 else 0) ∧
      (x ≠ 15 → (t.reg x).toNat = ((s.reg x).toNat + 256 - (s.reg y).toNat) % 256) ∧
      (∀ r, r ≠ x → r ≠ 15 → t.reg r = s.reg r) ∧ UnchangedExcept [.V] s t) ∧
    (∃ t, exec (.subnVxVy x y) s = .next t ∧
      (t.reg 15).toNat = (if (s.reg x).toNat ≤ (s.reg y).toNat then 1 else 0) ∧
      (x ≠ 15 → (t.reg x).toNat = ((s.reg y).toNat + 256 - (s.reg x).toNat) % 256) ∧
      (∀ r, r ≠ x → r ≠ 15 → t.reg r = s.reg r) ∧ UnchangedExcept [.V] s t)

/-- 43_alu.md R196, R198, R199 and R200 (SHIFT_SOURCE is the spec's decision D9, that the flag wins when X = 0xF its decision D10):
under either setting the operand is shifted by one into V[X], and VF is the bit shifted out. -/
def Obligations.ShiftsSetTheBitShiftedOut : Prop :=
  ∀ (s : State) (x y : Reg) (src : Byte),
    src = (match s.cfg.shiftSource with | .vx => s.reg x | .vy => s.reg y) →
    (∃ t, exec (.shrVxVy x y) s = .next t ∧ (t.reg 15).toNat = src.toNat % 2 ∧
      (x ≠ 15 → (t.reg x).toNat = src.toNat / 2) ∧
      (∀ r, r ≠ x → r ≠ 15 → t.reg r = s.reg r) ∧ UnchangedExcept [.V] s t) ∧
    (∃ t, exec (.shlVxVy x y) s = .next t ∧ (t.reg 15).toNat = src.toNat / 128 ∧
      (x ≠ 15 → (t.reg x).toNat = src.toNat * 2 % 256) ∧
      (∀ r, r ≠ x → r ≠ 15 → t.reg r = s.reg r) ∧ UnchangedExcept [.V] s t)

/-! ## Keys and timers -/

/-- 44_keys_timers.md R220, R221 and R222 (KEY_OOB and reading as up are the spec's decision D16): SKP skips on a key that is down,
SKNP on one that is up; an index above 15 reads as up and sets bit 5 of `fault`. -/
def Obligations.KeySkipsReadTheLatch : Prop :=
  ∀ (s : State) (x : Reg),
    (∀ k : Fin 16, (s.reg x).toNat = k.val →
      (∃ t, exec (.skp x) s = .next t ∧ UnchangedExcept [.pc] s t ∧
        t.pc.toNat = (if s.key k = true then (s.pc.toNat + 2) % 65536 else s.pc.toNat)) ∧
      (∃ t, exec (.sknp x) s = .next t ∧ UnchangedExcept [.pc] s t ∧
        t.pc.toNat = (if s.key k = true then s.pc.toNat else (s.pc.toNat + 2) % 65536))) ∧
    (15 < (s.reg x).toNat →
      (∃ t, exec (.skp x) s = .next t ∧ t.fault = s.fault ||| 0x20 ∧ UnchangedExcept [.fault] s t) ∧
      (∃ t, exec (.sknp x) s = .next t ∧ t.fault = s.fault ||| 0x20 ∧ t.pc.toNat = (s.pc.toNat + 2) % 65536 ∧
        UnchangedExcept [.pc, .fault] s t))

/-- 44_keys_timers.md R223, R225 and R226: FX07 reads DT from before the step's tick, FX15 and FX18 set DT and ST, and the same
step's tick then decrements a timer above zero. -/
def Obligations.TimerInstructionsMoveTheTimers : Prop :=
  (∀ w : Word, w.toNat / 4096 = 0xF → ∀ x : Reg, x.val = w.toNat / 256 % 16 →
    (w.toNat % 256 = 0x07 → decodeWord w = .ldVxDt x) ∧ (w.toNat % 256 = 0x15 → decodeWord w = .ldDtVx x) ∧
    (w.toNat % 256 = 0x18 → decodeWord w = .ldStVx x)) ∧
  (∀ (s : State) (x : Reg),
    (∃ t, exec (.ldVxDt x) s = .next t ∧ t.reg x = s.DT ∧ (∀ r, r ≠ x → t.reg r = s.reg r) ∧ UnchangedExcept [.V] s t) ∧
    (∃ t, exec (.ldDtVx x) s = .next t ∧ t.DT = s.reg x ∧ UnchangedExcept [.DT] s t) ∧
    (∃ t, exec (.ldStVx x) s = .next t ∧ t.ST = s.reg x ∧ UnchangedExcept [.ST] s t)) ∧
  ∀ (s : State) (x : Reg),
    (fetchedInstr s = .ldVxDt x → ∃ t, step s = .next t ∧ t.reg x = s.DT ∧ t.DT.toNat = s.DT.toNat - 1) ∧
    (fetchedInstr s = .ldDtVx x → ∃ t, step s = .next t ∧ t.DT.toNat = (s.reg x).toNat - 1) ∧
    (fetchedInstr s = .ldStVx x → ∃ t, step s = .next t ∧ t.ST.toNat = (s.reg x).toNat - 1)

/-- 44_keys_timers.md R224 (the lowest key is the spec's decision D14, FX0A_CLEARS_KEY its decision D15): with a key down, V[X] gets
the lowest one's index and the latch bit is cleared exactly when the setting says so; with none down, pc goes back by 2, so that the
step ends at the FX0A's own address. -/
def Obligations.WaitForKeyTakesTheLowestKey : Prop :=
  (∀ (s : State) (x : Reg),
    (∀ k : Fin 16, s.key k = true → (∀ j : Fin 16, j < k → s.key j = false) →
      ∃ t, exec (.ldVxK x) s = .next t ∧ (t.reg x).toNat = k.val ∧ (∀ r, r ≠ x → t.reg r = s.reg r) ∧
        t.key k = !s.cfg.fx0aClearsKey ∧ (∀ j, j ≠ k → t.key j = s.key j) ∧ UnchangedExcept [.V, .keys] s t) ∧
    ((∀ k, s.key k = false) → ∃ t, exec (.ldVxK x) s = .next t ∧
      t.pc.toNat = (s.pc.toNat + 65534) % 65536 ∧ UnchangedExcept [.pc] s t)) ∧
  ∀ (s : State) (x : Reg), fetchedInstr s = .ldVxK x → (∀ k, s.key k = false) →
    ∃ t, step s = .next t ∧ t.pc = s.pc ∧ t.DT.toNat = s.DT.toNat - 1

/-! ## Index and memory -/

/-- 45_index_memory.md R250 and R251: FX1E adds V[X] to I mod 2^16, FX29 points I at 0x050 + 5 V[X], V[X] used whole; VF is not
written. -/
def Obligations.IndexInstructionsWriteI : Prop :=
  (∀ w : Word, w.toNat / 4096 = 0xF → ∀ x : Reg, x.val = w.toNat / 256 % 16 →
    (w.toNat % 256 = 0x1E → decodeWord w = .addIVx x) ∧ (w.toNat % 256 = 0x29 → decodeWord w = .ldFVx x)) ∧
  ∀ (s : State) (x : Reg),
    (∃ t, exec (.addIVx x) s = .next t ∧ t.I.toNat = (s.I.toNat + (s.reg x).toNat) % 65536 ∧ UnchangedExcept [.I] s t) ∧
    (∃ t, exec (.ldFVx x) s = .next t ∧ t.I.toNat = 0x050 + (s.reg x).toNat * 5 ∧ UnchangedExcept [.I] s t)

/-- 45_index_memory.md R252 (discarding an out-of-range write and recording it are the spec's decisions D2, D3, exact addresses
D4): the three decimal digits, most significant first, at I, I + 1 and I + 2, each checked on its own; every other byte reads as
before. -/
def Obligations.BcdStoresThreeDigits : Prop :=
  ∀ (s : State) (x : Reg), ∃ t, exec (.ldBVx x) s = .next t ∧
    (s.effAddr 0 ≤ 0xFFF → (t.peek (s.effAddr 0)).toNat = (s.reg x).toNat / 100) ∧
    (s.effAddr 1 ≤ 0xFFF → (t.peek (s.effAddr 1)).toNat = (s.reg x).toNat / 10 % 10) ∧
    (s.effAddr 2 ≤ 0xFFF → (t.peek (s.effAddr 2)).toNat = (s.reg x).toNat % 10) ∧
    (∀ a, 0xFFF < a ∨ a < s.effAddr 0 ∨ s.effAddr 2 < a → t.peek a = s.peek a) ∧
    t.fault = (if s.effAddr 2 ≤ 0xFFF then s.fault else s.fault ||| 0x10) ∧
    UnchangedExcept [.mem, .fault] s t

/-- 45_index_memory.md R253 (discarding an out-of-range write and recording it are the spec's decisions D2, D3, exact addresses
D4): V0 to Vx at I to I + X, each byte checked on its own, then I + X + 1 mod 2^16; every other byte reads as before. -/
def Obligations.StoreRegistersWritesV0ToVx : Prop :=
  ∀ (s : State) (x : Reg), ∃ t, exec (.ldMemVx x) s = .next t ∧
    (∀ r : Reg, r ≤ x → s.effAddr r.val ≤ 0xFFF → t.peek (s.effAddr r.val) = s.reg r) ∧
    (∀ a, 0xFFF < a ∨ (∀ r : Reg, r ≤ x → a ≠ s.effAddr r.val) → t.peek a = s.peek a) ∧
    t.I.toNat = (s.I.toNat + x.val + 1) % 65536 ∧
    t.fault = (if s.effAddr x.val ≤ 0xFFF then s.fault else s.fault ||| 0x10) ∧
    UnchangedExcept [.mem, .I, .fault] s t

/-- 45_index_memory.md R254 (0x00 for an out-of-range byte and recording it are the spec's decisions D2, D3, exact addresses D4):
V0 to Vx from I to I + X, then I + X + 1 mod 2^16; the other registers and all of memory are unchanged. -/
def Obligations.LoadRegistersReadsV0ToVx : Prop :=
  ∀ (s : State) (x : Reg), ∃ t, exec (.ldVxMem x) s = .next t ∧
    (∀ r : Reg, r ≤ x → t.reg r = (if s.effAddr r.val ≤ 0xFFF then s.peek (s.effAddr r.val) else 0x00)) ∧
    (∀ r : Reg, x < r → t.reg r = s.reg r) ∧
    t.I.toNat = (s.I.toNat + x.val + 1) % 65536 ∧
    t.fault = (if s.effAddr x.val ≤ 0xFFF then s.fault else s.fault ||| 0x08) ∧
    UnchangedExcept [.V, .I, .fault] s t

/-- 95_test_vectors.md W8 (90_conflicts.md C8): an FX65 from the same base, over the memory an FX55 left, gives back V0 to Vx as
stored and ends with the same I. -/
def Obligations.LoadGivesBackWhatStoreStored : Prop :=
  ∀ (s : State) (x : Reg), s.effAddr x.val ≤ 0xFFF → ∃ t, exec (.ldMemVx x) s = .next t ∧
    ∀ u : State, u.I = s.I → (∀ a, u.peek a = t.peek a) →
      ∃ v, exec (.ldVxMem x) u = .next v ∧ v.I = t.I ∧ ∀ r : Reg, r ≤ x → v.reg r = s.reg r

/-! ## Display -/

/-- 40_display.md R120: any word 0nn0 turns all 2048 pixels OFF and changes nothing else; VF is not written. -/
def Obligations.ClsTurnsEveryPixelOff : Prop :=
  (∀ w : Word, w.toNat / 4096 = 0x0 → w.toNat % 16 = 0x0 → decodeWord w = .cls) ∧
  ∀ s : State, ∃ t, exec .cls s = .next t ∧ (∀ p : Fin 2048, t.pixel p = false) ∧ UnchangedExcept [.video] s t

/-- 40_display.md R121 and R122 (the bit order is general knowledge, the spec's decision D12, log entry 9; DRAW_EDGE its decision
D11; row bytes past 0xFFF, at exact addresses, reading as 0x00 its decisions D3, D4): under either edge policy the drawing loop
toggles exactly the pixels a sprite bit falls on, each once. -/
def Obligations.DrwTogglesExactlyTheCoveredPixels : Prop :=
  ∀ (s : State) (x y : Reg) (n : Fin 16), ∃ t, exec (.drw x y n) s = .next t ∧
    ∀ p : Fin 2048, (s.spriteCovers x y n p → t.pixel p = !s.pixel p) ∧ (¬ s.spriteCovers x y n p → t.pixel p = s.pixel p)

/-- 40_display.md R124 (with R122 and R123: the spec's decisions D11, D12; row bytes past 0xFFF, at exact addresses, reading as
0x00: D3, D4; that VF is written last: D10): VF is 1 if some covered
pixel was ON before the draw, else 0, computed across the whole sprite. -/
def Obligations.DrwFlagSaysAPixelWasErased : Prop :=
  ∀ (s : State) (x y : Reg) (n : Fin 16), ∃ t, exec (.drw x y n) s = .next t ∧
    ((∃ p : Fin 2048, s.spriteCovers x y n p ∧ s.pixel p = true) → (t.reg 15).toNat = 1) ∧
    ((∀ p : Fin 2048, s.spriteCovers x y n p → s.pixel p = false) → (t.reg 15).toNat = 0)

/-- 40_display.md R121 (reading every row, at exact addresses, and recording READ_OOB are the spec's decisions D2, D3, D4, D13):
besides the pixels, DRW writes VF and, where a row lies past 0xFFF, the READ_OOB bit; I, memory and the other registers are
unchanged. Every word of group D is DRW. -/
def Obligations.DrwWritesOnlyPixelsFlagAndReadFault : Prop :=
  (∀ w : Word, w.toNat / 4096 = 0xD → ∃ x y n, decodeWord w = .drw x y n ∧ n.val = w.toNat % 16) ∧
  ∀ (s : State) (x y : Reg) (n : Fin 16), ∃ t, exec (.drw x y n) s = .next t ∧
    (∀ r, r ≠ 15 → t.reg r = s.reg r) ∧
    ((∀ r, r < n.val → s.effAddr r ≤ 0xFFF) → t.fault = s.fault) ∧
    ((∃ r, r < n.val ∧ 0xFFF < s.effAddr r) → t.fault = s.fault ||| 0x08) ∧
    UnchangedExcept [.V, .video, .fault] s t

/-- 95_test_vectors.md W6, for every sprite whose coordinates are not in VF (which the first draw overwrites): drawing twice at the
same origin gives back the screen, and over a clear screen the second draw of a sprite that covers a pixel sets VF. Which pixels a
sprite covers rests on the bit order (general knowledge, the spec's decision D12, log entry 9), on DRAW_EDGE (its decision D11) and
on row bytes past 0xFFF, at exact addresses, reading as 0x00 (its decisions D3, D4). -/
def Obligations.DrawingTwiceRestoresTheScreen : Prop :=
  ∀ (s : State) (x y : Reg) (n : Fin 16), x ≠ 15 → y ≠ 15 →
    ∃ t u, exec (.drw x y n) s = .next t ∧ exec (.drw x y n) t = .next u ∧
      (∀ p : Fin 2048, u.pixel p = s.pixel p) ∧
      ((∀ p : Fin 2048, s.pixel p = false) → ∀ p : Fin 2048, s.spriteCovers x y n p → (u.reg 15).toNat = 1)
end

