-- ==== Sys2Proof/Laws/Encoding.lean ====
section
/-! SUPPORT. The fields of a word and the packed words as numbers, so that encodings are compared by arithmetic. -/

namespace Sys2Proof

/-! ### Fields as numbers (30_encoding.md R81) -/

theorem groupOf_toNat (w : Word) : (groupOf w).toNat = w.toNat / 4096 := by
  have := w.isLt
  simp only [groupOf, BitVec.extractLsb'_toNat, Nat.shiftRight_eq_div_pow]
  omega

theorem fieldX_val (w : Word) : (fieldX w).val = w.toNat / 256 % 16 := by
  show (w.extractLsb' 8 4).toNat = _
  simp only [BitVec.extractLsb'_toNat, Nat.shiftRight_eq_div_pow]

theorem fieldY_val (w : Word) : (fieldY w).val = w.toNat / 16 % 16 := by
  show (w.extractLsb' 4 4).toNat = _
  simp only [BitVec.extractLsb'_toNat, Nat.shiftRight_eq_div_pow]

theorem lowNibble_toNat (w : Word) : (lowNibble w).toNat = w.toNat % 16 := by
  simp only [lowNibble, BitVec.extractLsb'_toNat, Nat.shiftRight_eq_div_pow]
  omega

theorem fieldN_val (w : Word) : (fieldN w).val = w.toNat % 16 := lowNibble_toNat w

theorem fieldNn_toNat (w : Word) : (fieldNn w).toNat = w.toNat % 256 := by
  simp only [fieldNn, BitVec.extractLsb'_toNat, Nat.shiftRight_eq_div_pow]
  omega

theorem fieldNnn_toNat (w : Word) : (fieldNnn w).toNat = w.toNat % 4096 := by
  simp only [fieldNnn, BitVec.extractLsb'_toNat, Nat.shiftRight_eq_div_pow]
  omega

theorem highByte_toNat (w : Word) : (highByte w).toNat = w.toNat / 256 := by
  have := w.isLt
  simp only [highByte, BitVec.extractLsb'_toNat, Nat.shiftRight_eq_div_pow]
  omega

theorem lowByteOf_toNat (w : Word) : (lowByteOf w).toNat = w.toNat % 256 := by
  simp only [lowByteOf, BitVec.extractLsb'_toNat, Nat.shiftRight_eq_div_pow]
  omega

/-! ### Packed words as numbers -/

/-- Joining bit vectors is adding the high part shifted left. -/
theorem append_toNat {n m : Nat} (a : BitVec n) (b : BitVec m) : (a ++ b).toNat = a.toNat * 2 ^ m + b.toNat := by
  rw [BitVec.toNat_append, Nat.shiftLeft_eq, Nat.mul_comm, ← Nat.two_pow_add_eq_or_of_lt b.isLt]

theorem regBits_toNat (x : Fin 16) : (regBits x).toNat = x.val := rfl

theorem packXNn_toNat (g : BitVec 4) (x : Reg) (nn : Byte) :
    (packXNn g x nn).toNat = g.toNat * 4096 + x.val * 256 + nn.toNat := by
  have h : (packXNn g x nn).toNat = (g ++ regBits x).toNat * 2 ^ 8 + nn.toNat := append_toNat _ _
  rw [h, append_toNat, regBits_toNat]
  omega

theorem packXYN_toNat (g : BitVec 4) (x y : Reg) (n : BitVec 4) :
    (packXYN g x y n).toNat = g.toNat * 4096 + x.val * 256 + y.val * 16 + n.toNat := by
  have h : (packXYN g x y n).toNat = (g ++ regBits x ++ regBits y).toNat * 2 ^ 4 + n.toNat := append_toNat _ _
  rw [h, append_toNat, append_toNat, regBits_toNat, regBits_toNat]
  omega

theorem packNnn_toNat (g : BitVec 4) (nnn : Addr) : (packNnn g nnn).toNat = g.toNat * 4096 + nnn.toNat := by
  have h : (packNnn g nnn).toNat = g.toNat * 2 ^ 12 + nnn.toNat := append_toNat _ _
  omega

theorem wordOf_toNat (hi lo : Byte) : (wordOf hi lo).toNat = hi.toNat * 256 + lo.toNat := by
  have h : (wordOf hi lo).toNat = hi.toNat * 2 ^ 8 + lo.toNat := append_toNat _ _
  omega

/-- A word is its two bytes joined. -/
theorem wordOf_high_low (w : Word) : wordOf (highByte w) (lowByteOf w) = w := by
  apply BitVec.eq_of_toNat_eq
  rw [wordOf_toNat, highByte_toNat, lowByteOf_toNat]
  omega

/-! ### Masked words as numbers, for the three masks of the opcode table -/

theorem and_F000 (w : Word) : (w &&& 0xF000#16).toNat = w.toNat / 4096 * 4096 := by
  have h1 : w &&& 0xF000#16 = (w >>> 12) <<< 12 := by
    ext i hi
    have : i = 0 ∨ i = 1 ∨ i = 2 ∨ i = 3 ∨ i = 4 ∨ i = 5 ∨ i = 6 ∨ i = 7 ∨ i = 8 ∨ i = 9 ∨ i = 10 ∨ i = 11 ∨
        i = 12 ∨ i = 13 ∨ i = 14 ∨ i = 15 := by omega
    rcases this with h | h | h | h | h | h | h | h | h | h | h | h | h | h | h | h <;> subst h <;> simp
  have := w.isLt
  rw [h1, BitVec.toNat_shiftLeft, BitVec.toNat_ushiftRight, Nat.shiftRight_eq_div_pow, Nat.shiftLeft_eq]
  omega

theorem and_000F (w : Word) : (w &&& 0x000F#16).toNat = w.toNat % 16 := by
  rw [BitVec.toNat_and]
  exact Nat.and_two_pow_sub_one_eq_mod w.toNat 4

theorem and_00FF (w : Word) : (w &&& 0x00FF#16).toNat = w.toNat % 256 := by
  rw [BitVec.toNat_and]
  exact Nat.and_two_pow_sub_one_eq_mod w.toNat 8

/-- A mask of two disjoint parts is met exactly when both parts are. -/
theorem and_or_eq_iff (w m1 m2 p1 p2 : Word) (hm : m1 &&& m2 = 0) (h1 : p1 &&& m1 = p1) (h2 : p2 &&& m2 = p2) :
    w &&& (m1 ||| m2) = p1 ||| p2 ↔ w &&& m1 = p1 ∧ w &&& m2 = p2 := by
  have bit : ∀ {a b : Word}, a = b → ∀ i (hi : i < 16), a[i] = b[i] := by intro a b e i hi; rw [e]
  constructor
  · intro h
    constructor <;> ext i hi
    all_goals
      have a1 := bit h i hi
      have a2 := bit hm i hi
      have a3 := bit h1 i hi
      have a4 := bit h2 i hi
      simp at a1 a2 a3 a4 ⊢
      revert a1 a2 a3 a4
      cases w[i] <;> cases m1[i] <;> cases m2[i] <;> cases p1[i] <;> cases p2[i] <;> simp
  · rintro ⟨ha, hb⟩
    rw [← ha, ← hb]
    ext i hi
    simp
    cases w[i] <;> cases m1[i] <;> cases m2[i] <;> rfl

theorem selects_F000 (w p : Word) : (OpcodeRow.mk 0xF000#16 p).selects w = true ↔ w.toNat / 4096 * 4096 = p.toNat := by
  simp only [OpcodeRow.selects, beq_iff_eq, ← BitVec.toNat_inj, and_F000]

theorem selects_F00F (w p q : Word) (hp : p &&& 0xF000#16 = p) (hq : q &&& 0x000F#16 = q) :
    (OpcodeRow.mk 0xF00F#16 (p ||| q)).selects w = true ↔ w.toNat / 4096 * 4096 = p.toNat ∧ w.toNat % 16 = q.toNat := by
  have := and_or_eq_iff w 0xF000#16 0x000F#16 p q (by decide) hp hq
  simp only [OpcodeRow.selects, beq_iff_eq, ← and_F000, ← and_000F, BitVec.toNat_inj]
  exact this

theorem selects_F0FF (w p q : Word) (hp : p &&& 0xF000#16 = p) (hq : q &&& 0x00FF#16 = q) :
    (OpcodeRow.mk 0xF0FF#16 (p ||| q)).selects w = true ↔ w.toNat / 4096 * 4096 = p.toNat ∧ w.toNat % 256 = q.toNat := by
  have := and_or_eq_iff w 0xF000#16 0x00FF#16 p q (by decide) hp hq
  simp only [OpcodeRow.selects, beq_iff_eq, ← and_F000, ← and_00FF, BitVec.toNat_inj]
  exact this

end Sys2Proof
end

