-- ==== Sys2Proof/Laws/Decode.lean ====
section
/-! SUPPORT. What the decoder answers for a word, by the arithmetic of its nibbles: one spec lemma for each level of the dispatch
(30_encoding.md R86 to R91). -/

namespace Sys2Proof

theorem groupOf_eq {w : Word} {n : Nat} (h : w.toNat / 4096 = n) : groupOf w = BitVec.ofNat 4 n := by
  apply BitVec.eq_of_toNat_eq
  have := w.isLt
  rw [groupOf_toNat, BitVec.toNat_ofNat]
  omega

theorem lowNibble_eq {w : Word} {n : Nat} (h : w.toNat % 16 = n) : lowNibble w = BitVec.ofNat 4 n := by
  apply BitVec.eq_of_toNat_eq
  rw [lowNibble_toNat, BitVec.toNat_ofNat]
  omega

theorem fieldNn_eq {w : Word} {n : Nat} (h : w.toNat % 256 = n) : fieldNn w = BitVec.ofNat 8 n := by
  apply BitVec.eq_of_toNat_eq
  rw [fieldNn_toNat, BitVec.toNat_ofNat]
  omega

/-- A register index is the X field when its value is. -/
theorem fieldX_eq {w : Word} {x : Reg} (h : x.val = w.toNat / 256 % 16) : fieldX w = x := Fin.ext (by rw [fieldX_val, h])

/-- A register index is the Y field when its value is. -/
theorem fieldY_eq {w : Word} {y : Reg} (h : y.val = w.toNat / 16 % 16) : fieldY w = y := Fin.ext (by rw [fieldY_val, h])

/-! ### Group 0x0 (R87) -/

theorem decodeGroup0_cls {w : Word} (h : w.toNat % 16 = 0x0) : decodeGroup0 w = .cls := by
  simp [decodeGroup0, lowNibble_eq h]

theorem decodeGroup0_ret {w : Word} (h : w.toNat % 16 = 0xE) : decodeGroup0 w = .ret := by
  simp [decodeGroup0, lowNibble_eq h]

theorem decodeGroup0_unassigned {w : Word}
    (h0 : w.toNat % 16 ≠ 0x0)
    (hE : w.toNat % 16 ≠ 0xE) :
    decodeGroup0 w = .unassigned w := by
  unfold decodeGroup0
  split
  case h_3 => rfl
  all_goals
    next h =>
      have := congrArg BitVec.toNat h
      rw [lowNibble_toNat] at this
      simp at this
      omega

/-- Every answer of group 0x0. -/
theorem decodeGroup0_cases (w : Word) :
    (w.toNat % 16 = 0x0 ∧ decodeGroup0 w = .cls) ∨
    (w.toNat % 16 = 0xE ∧ decodeGroup0 w = .ret) ∨
    (w.toNat % 16 ≠ 0x0 ∧ w.toNat % 16 ≠ 0xE ∧
      decodeGroup0 w = .unassigned w) := by
  by_cases h0 : w.toNat % 16 = 0x0
  · exact .inl ⟨h0, decodeGroup0_cls h0⟩
  by_cases hE : w.toNat % 16 = 0xE
  · exact .inr (.inl ⟨hE, decodeGroup0_ret hE⟩)
  exact .inr (.inr ⟨h0, hE, decodeGroup0_unassigned h0 hE⟩)

/-! ### Group 0x8 (R88) -/

theorem decodeGroup8_ldVxVy {w : Word} (h : w.toNat % 16 = 0x0) : decodeGroup8 w = .ldVxVy (fieldX w) (fieldY w) := by
  simp [decodeGroup8, lowNibble_eq h]

theorem decodeGroup8_orVxVy {w : Word} (h : w.toNat % 16 = 0x1) : decodeGroup8 w = .orVxVy (fieldX w) (fieldY w) := by
  simp [decodeGroup8, lowNibble_eq h]

theorem decodeGroup8_andVxVy {w : Word} (h : w.toNat % 16 = 0x2) : decodeGroup8 w = .andVxVy (fieldX w) (fieldY w) := by
  simp [decodeGroup8, lowNibble_eq h]

theorem decodeGroup8_xorVxVy {w : Word} (h : w.toNat % 16 = 0x3) : decodeGroup8 w = .xorVxVy (fieldX w) (fieldY w) := by
  simp [decodeGroup8, lowNibble_eq h]

theorem decodeGroup8_addVxVy {w : Word} (h : w.toNat % 16 = 0x4) : decodeGroup8 w = .addVxVy (fieldX w) (fieldY w) := by
  simp [decodeGroup8, lowNibble_eq h]

theorem decodeGroup8_subVxVy {w : Word} (h : w.toNat % 16 = 0x5) : decodeGroup8 w = .subVxVy (fieldX w) (fieldY w) := by
  simp [decodeGroup8, lowNibble_eq h]

theorem decodeGroup8_shrVxVy {w : Word} (h : w.toNat % 16 = 0x6) : decodeGroup8 w = .shrVxVy (fieldX w) (fieldY w) := by
  simp [decodeGroup8, lowNibble_eq h]

theorem decodeGroup8_subnVxVy {w : Word} (h : w.toNat % 16 = 0x7) : decodeGroup8 w = .subnVxVy (fieldX w) (fieldY w) := by
  simp [decodeGroup8, lowNibble_eq h]

theorem decodeGroup8_shlVxVy {w : Word} (h : w.toNat % 16 = 0xE) : decodeGroup8 w = .shlVxVy (fieldX w) (fieldY w) := by
  simp [decodeGroup8, lowNibble_eq h]

theorem decodeGroup8_unassigned {w : Word}
    (h0 : w.toNat % 16 ≠ 0x0)
    (h1 : w.toNat % 16 ≠ 0x1)
    (h2 : w.toNat % 16 ≠ 0x2)
    (h3 : w.toNat % 16 ≠ 0x3)
    (h4 : w.toNat % 16 ≠ 0x4)
    (h5 : w.toNat % 16 ≠ 0x5)
    (h6 : w.toNat % 16 ≠ 0x6)
    (h7 : w.toNat % 16 ≠ 0x7)
    (hE : w.toNat % 16 ≠ 0xE) :
    decodeGroup8 w = .unassigned w := by
  unfold decodeGroup8
  split
  case h_10 => rfl
  all_goals
    next h =>
      have := congrArg BitVec.toNat h
      rw [lowNibble_toNat] at this
      simp at this
      omega

/-- Every answer of group 0x8. -/
theorem decodeGroup8_cases (w : Word) :
    (w.toNat % 16 = 0x0 ∧ decodeGroup8 w = .ldVxVy (fieldX w) (fieldY w)) ∨
    (w.toNat % 16 = 0x1 ∧ decodeGroup8 w = .orVxVy (fieldX w) (fieldY w)) ∨
    (w.toNat % 16 = 0x2 ∧ decodeGroup8 w = .andVxVy (fieldX w) (fieldY w)) ∨
    (w.toNat % 16 = 0x3 ∧ decodeGroup8 w = .xorVxVy (fieldX w) (fieldY w)) ∨
    (w.toNat % 16 = 0x4 ∧ decodeGroup8 w = .addVxVy (fieldX w) (fieldY w)) ∨
    (w.toNat % 16 = 0x5 ∧ decodeGroup8 w = .subVxVy (fieldX w) (fieldY w)) ∨
    (w.toNat % 16 = 0x6 ∧ decodeGroup8 w = .shrVxVy (fieldX w) (fieldY w)) ∨
    (w.toNat % 16 = 0x7 ∧ decodeGroup8 w = .subnVxVy (fieldX w) (fieldY w)) ∨
    (w.toNat % 16 = 0xE ∧ decodeGroup8 w = .shlVxVy (fieldX w) (fieldY w)) ∨
    (w.toNat % 16 ≠ 0x0 ∧ w.toNat % 16 ≠ 0x1 ∧ w.toNat % 16 ≠ 0x2 ∧ w.toNat % 16 ≠ 0x3 ∧ w.toNat % 16 ≠ 0x4 ∧ w.toNat % 16 ≠ 0x5 ∧ w.toNat % 16 ≠ 0x6 ∧ w.toNat % 16 ≠ 0x7 ∧ w.toNat % 16 ≠ 0xE ∧
      decodeGroup8 w = .unassigned w) := by
  by_cases h0 : w.toNat % 16 = 0x0
  · exact .inl ⟨h0, decodeGroup8_ldVxVy h0⟩
  by_cases h1 : w.toNat % 16 = 0x1
  · exact .inr (.inl ⟨h1, decodeGroup8_orVxVy h1⟩)
  by_cases h2 : w.toNat % 16 = 0x2
  · exact .inr (.inr (.inl ⟨h2, decodeGroup8_andVxVy h2⟩))
  by_cases h3 : w.toNat % 16 = 0x3
  · exact .inr (.inr (.inr (.inl ⟨h3, decodeGroup8_xorVxVy h3⟩)))
  by_cases h4 : w.toNat % 16 = 0x4
  · exact .inr (.inr (.inr (.inr (.inl ⟨h4, decodeGroup8_addVxVy h4⟩))))
  by_cases h5 : w.toNat % 16 = 0x5
  · exact .inr (.inr (.inr (.inr (.inr (.inl ⟨h5, decodeGroup8_subVxVy h5⟩)))))
  by_cases h6 : w.toNat % 16 = 0x6
  · exact .inr (.inr (.inr (.inr (.inr (.inr (.inl ⟨h6, decodeGroup8_shrVxVy h6⟩))))))
  by_cases h7 : w.toNat % 16 = 0x7
  · exact .inr (.inr (.inr (.inr (.inr (.inr (.inr (.inl ⟨h7, decodeGroup8_subnVxVy h7⟩)))))))
  by_cases hE : w.toNat % 16 = 0xE
  · exact .inr (.inr (.inr (.inr (.inr (.inr (.inr (.inr (.inl ⟨hE, decodeGroup8_shlVxVy hE⟩))))))))
  exact .inr (.inr (.inr (.inr (.inr (.inr (.inr (.inr (.inr ⟨h0, h1, h2, h3, h4, h5, h6, h7, hE, decodeGroup8_unassigned h0 h1 h2 h3 h4 h5 h6 h7 hE⟩))))))))

/-! ### Group 0xE (R89) -/

theorem decodeGroupE_skp {w : Word} (h : w.toNat % 256 = 0x9E) : decodeGroupE w = .skp (fieldX w) := by
  simp [decodeGroupE, fieldNn_eq h]

theorem decodeGroupE_sknp {w : Word} (h : w.toNat % 256 = 0xA1) : decodeGroupE w = .sknp (fieldX w) := by
  simp [decodeGroupE, fieldNn_eq h]

theorem decodeGroupE_unassigned {w : Word}
    (h9E : w.toNat % 256 ≠ 0x9E)
    (hA1 : w.toNat % 256 ≠ 0xA1) :
    decodeGroupE w = .unassigned w := by
  unfold decodeGroupE
  split
  case h_3 => rfl
  all_goals
    next h =>
      have := congrArg BitVec.toNat h
      rw [fieldNn_toNat] at this
      simp at this
      omega

/-- Every answer of group 0xE. -/
theorem decodeGroupE_cases (w : Word) :
    (w.toNat % 256 = 0x9E ∧ decodeGroupE w = .skp (fieldX w)) ∨
    (w.toNat % 256 = 0xA1 ∧ decodeGroupE w = .sknp (fieldX w)) ∨
    (w.toNat % 256 ≠ 0x9E ∧ w.toNat % 256 ≠ 0xA1 ∧
      decodeGroupE w = .unassigned w) := by
  by_cases h9E : w.toNat % 256 = 0x9E
  · exact .inl ⟨h9E, decodeGroupE_skp h9E⟩
  by_cases hA1 : w.toNat % 256 = 0xA1
  · exact .inr (.inl ⟨hA1, decodeGroupE_sknp hA1⟩)
  exact .inr (.inr ⟨h9E, hA1, decodeGroupE_unassigned h9E hA1⟩)

/-! ### Group 0xF (R90) -/

theorem decodeGroupF_ldVxDt {w : Word} (h : w.toNat % 256 = 0x7) : decodeGroupF w = .ldVxDt (fieldX w) := by
  simp [decodeGroupF, fieldNn_eq h]

theorem decodeGroupF_ldVxK {w : Word} (h : w.toNat % 256 = 0xA) : decodeGroupF w = .ldVxK (fieldX w) := by
  simp [decodeGroupF, fieldNn_eq h]

theorem decodeGroupF_ldDtVx {w : Word} (h : w.toNat % 256 = 0x15) : decodeGroupF w = .ldDtVx (fieldX w) := by
  simp [decodeGroupF, fieldNn_eq h]

theorem decodeGroupF_ldStVx {w : Word} (h : w.toNat % 256 = 0x18) : decodeGroupF w = .ldStVx (fieldX w) := by
  simp [decodeGroupF, fieldNn_eq h]

theorem decodeGroupF_addIVx {w : Word} (h : w.toNat % 256 = 0x1E) : decodeGroupF w = .addIVx (fieldX w) := by
  simp [decodeGroupF, fieldNn_eq h]

theorem decodeGroupF_ldFVx {w : Word} (h : w.toNat % 256 = 0x29) : decodeGroupF w = .ldFVx (fieldX w) := by
  simp [decodeGroupF, fieldNn_eq h]

theorem decodeGroupF_ldBVx {w : Word} (h : w.toNat % 256 = 0x33) : decodeGroupF w = .ldBVx (fieldX w) := by
  simp [decodeGroupF, fieldNn_eq h]

theorem decodeGroupF_ldMemVx {w : Word} (h : w.toNat % 256 = 0x55) : decodeGroupF w = .ldMemVx (fieldX w) := by
  simp [decodeGroupF, fieldNn_eq h]

theorem decodeGroupF_ldVxMem {w : Word} (h : w.toNat % 256 = 0x65) : decodeGroupF w = .ldVxMem (fieldX w) := by
  simp [decodeGroupF, fieldNn_eq h]

theorem decodeGroupF_unassigned {w : Word}
    (h7 : w.toNat % 256 ≠ 0x7)
    (hA : w.toNat % 256 ≠ 0xA)
    (h15 : w.toNat % 256 ≠ 0x15)
    (h18 : w.toNat % 256 ≠ 0x18)
    (h1E : w.toNat % 256 ≠ 0x1E)
    (h29 : w.toNat % 256 ≠ 0x29)
    (h33 : w.toNat % 256 ≠ 0x33)
    (h55 : w.toNat % 256 ≠ 0x55)
    (h65 : w.toNat % 256 ≠ 0x65) :
    decodeGroupF w = .unassigned w := by
  unfold decodeGroupF
  split
  case h_10 => rfl
  all_goals
    next h =>
      have := congrArg BitVec.toNat h
      rw [fieldNn_toNat] at this
      simp at this
      omega

/-- Every answer of group 0xF. -/
theorem decodeGroupF_cases (w : Word) :
    (w.toNat % 256 = 0x7 ∧ decodeGroupF w = .ldVxDt (fieldX w)) ∨
    (w.toNat % 256 = 0xA ∧ decodeGroupF w = .ldVxK (fieldX w)) ∨
    (w.toNat % 256 = 0x15 ∧ decodeGroupF w = .ldDtVx (fieldX w)) ∨
    (w.toNat % 256 = 0x18 ∧ decodeGroupF w = .ldStVx (fieldX w)) ∨
    (w.toNat % 256 = 0x1E ∧ decodeGroupF w = .addIVx (fieldX w)) ∨
    (w.toNat % 256 = 0x29 ∧ decodeGroupF w = .ldFVx (fieldX w)) ∨
    (w.toNat % 256 = 0x33 ∧ decodeGroupF w = .ldBVx (fieldX w)) ∨
    (w.toNat % 256 = 0x55 ∧ decodeGroupF w = .ldMemVx (fieldX w)) ∨
    (w.toNat % 256 = 0x65 ∧ decodeGroupF w = .ldVxMem (fieldX w)) ∨
    (w.toNat % 256 ≠ 0x7 ∧ w.toNat % 256 ≠ 0xA ∧ w.toNat % 256 ≠ 0x15 ∧ w.toNat % 256 ≠ 0x18 ∧ w.toNat % 256 ≠ 0x1E ∧ w.toNat % 256 ≠ 0x29 ∧ w.toNat % 256 ≠ 0x33 ∧ w.toNat % 256 ≠ 0x55 ∧ w.toNat % 256 ≠ 0x65 ∧
      decodeGroupF w = .unassigned w) := by
  by_cases h7 : w.toNat % 256 = 0x7
  · exact .inl ⟨h7, decodeGroupF_ldVxDt h7⟩
  by_cases hA : w.toNat % 256 = 0xA
  · exact .inr (.inl ⟨hA, decodeGroupF_ldVxK hA⟩)
  by_cases h15 : w.toNat % 256 = 0x15
  · exact .inr (.inr (.inl ⟨h15, decodeGroupF_ldDtVx h15⟩))
  by_cases h18 : w.toNat % 256 = 0x18
  · exact .inr (.inr (.inr (.inl ⟨h18, decodeGroupF_ldStVx h18⟩)))
  by_cases h1E : w.toNat % 256 = 0x1E
  · exact .inr (.inr (.inr (.inr (.inl ⟨h1E, decodeGroupF_addIVx h1E⟩))))
  by_cases h29 : w.toNat % 256 = 0x29
  · exact .inr (.inr (.inr (.inr (.inr (.inl ⟨h29, decodeGroupF_ldFVx h29⟩)))))
  by_cases h33 : w.toNat % 256 = 0x33
  · exact .inr (.inr (.inr (.inr (.inr (.inr (.inl ⟨h33, decodeGroupF_ldBVx h33⟩))))))
  by_cases h55 : w.toNat % 256 = 0x55
  · exact .inr (.inr (.inr (.inr (.inr (.inr (.inr (.inl ⟨h55, decodeGroupF_ldMemVx h55⟩)))))))
  by_cases h65 : w.toNat % 256 = 0x65
  · exact .inr (.inr (.inr (.inr (.inr (.inr (.inr (.inr (.inl ⟨h65, decodeGroupF_ldVxMem h65⟩))))))))
  exact .inr (.inr (.inr (.inr (.inr (.inr (.inr (.inr (.inr ⟨h7, hA, h15, h18, h1E, h29, h33, h55, h65, decodeGroupF_unassigned h7 hA h15 h18 h1E h29 h33 h55 h65⟩))))))))

/-! ### The first level (R86) -/

theorem decodeWord_group0 {w : Word} (h : w.toNat / 4096 = 0x0) : decodeWord w = decodeGroup0 w := by
  simp [decodeWord, groupOf_eq h]

theorem decodeWord_group1 {w : Word} (h : w.toNat / 4096 = 0x1) : decodeWord w = .jp (fieldNnn w) := by
  simp [decodeWord, groupOf_eq h]

theorem decodeWord_group2 {w : Word} (h : w.toNat / 4096 = 0x2) : decodeWord w = .call (fieldNnn w) := by
  simp [decodeWord, groupOf_eq h]

theorem decodeWord_group3 {w : Word} (h : w.toNat / 4096 = 0x3) : decodeWord w = .seVxNn (fieldX w) (fieldNn w) := by
  simp [decodeWord, groupOf_eq h]

theorem decodeWord_group4 {w : Word} (h : w.toNat / 4096 = 0x4) : decodeWord w = .sneVxNn (fieldX w) (fieldNn w) := by
  simp [decodeWord, groupOf_eq h]

theorem decodeWord_group5 {w : Word} (h : w.toNat / 4096 = 0x5) : decodeWord w = .seVxVy (fieldX w) (fieldY w) := by
  simp [decodeWord, groupOf_eq h]

theorem decodeWord_group6 {w : Word} (h : w.toNat / 4096 = 0x6) : decodeWord w = .ldVxNn (fieldX w) (fieldNn w) := by
  simp [decodeWord, groupOf_eq h]

theorem decodeWord_group7 {w : Word} (h : w.toNat / 4096 = 0x7) : decodeWord w = .addVxNn (fieldX w) (fieldNn w) := by
  simp [decodeWord, groupOf_eq h]

theorem decodeWord_group8 {w : Word} (h : w.toNat / 4096 = 0x8) : decodeWord w = decodeGroup8 w := by
  simp [decodeWord, groupOf_eq h]

theorem decodeWord_group9 {w : Word} (h : w.toNat / 4096 = 0x9) : decodeWord w = .sneVxVy (fieldX w) (fieldY w) := by
  simp [decodeWord, groupOf_eq h]

theorem decodeWord_groupA {w : Word} (h : w.toNat / 4096 = 0xA) : decodeWord w = .ldINnn (fieldNnn w) := by
  simp [decodeWord, groupOf_eq h]

theorem decodeWord_groupB {w : Word} (h : w.toNat / 4096 = 0xB) : decodeWord w = .jpV0Nnn (fieldNnn w) := by
  simp [decodeWord, groupOf_eq h]

theorem decodeWord_groupC {w : Word} (h : w.toNat / 4096 = 0xC) : decodeWord w = .rndVxNn (fieldX w) (fieldNn w) := by
  simp [decodeWord, groupOf_eq h]

theorem decodeWord_groupD {w : Word} (h : w.toNat / 4096 = 0xD) : decodeWord w = .drw (fieldX w) (fieldY w) (fieldN w) := by
  simp [decodeWord, groupOf_eq h]

theorem decodeWord_groupE {w : Word} (h : w.toNat / 4096 = 0xE) : decodeWord w = decodeGroupE w := by
  simp [decodeWord, groupOf_eq h]

theorem decodeWord_groupF {w : Word} (h : w.toNat / 4096 = 0xF) : decodeWord w = decodeGroupF w := by
  simp [decodeWord, groupOf_eq h]

end Sys2Proof
end

