-- ==== Sys2Proof/Laws/State.lean ====
section
/-! SUPPORT. One lemma per field per update of the state, so that no later proof unfolds a record update. -/

namespace Sys2Proof.Machine

/-! ### raise -/

@[simp] theorem raise_V (c : FaultCause) (s : State) : (s.raise c).V = s.V := rfl
@[simp] theorem raise_I (c : FaultCause) (s : State) : (s.raise c).I = s.I := rfl
@[simp] theorem raise_pc (c : FaultCause) (s : State) : (s.raise c).pc = s.pc := rfl
@[simp] theorem raise_stack (c : FaultCause) (s : State) : (s.raise c).stack = s.stack := rfl
@[simp] theorem raise_sp (c : FaultCause) (s : State) : (s.raise c).sp = s.sp := rfl
@[simp] theorem raise_DT (c : FaultCause) (s : State) : (s.raise c).DT = s.DT := rfl
@[simp] theorem raise_ST (c : FaultCause) (s : State) : (s.raise c).ST = s.ST := rfl
@[simp] theorem raise_mem (c : FaultCause) (s : State) : (s.raise c).mem = s.mem := rfl
@[simp] theorem raise_video (c : FaultCause) (s : State) : (s.raise c).video = s.video := rfl
@[simp] theorem raise_keys (c : FaultCause) (s : State) : (s.raise c).keys = s.keys := rfl
@[simp] theorem raise_opcode (c : FaultCause) (s : State) : (s.raise c).opcode = s.opcode := rfl
@[simp] theorem raise_fault (c : FaultCause) (s : State) : (s.raise c).fault = (s.fault ||| (1#8 <<< c.code)) := rfl
@[simp] theorem raise_cfg (c : FaultCause) (s : State) : (s.raise c).cfg = s.cfg := rfl
@[simp] theorem raise_randIn (c : FaultCause) (s : State) : (s.raise c).randIn = s.randIn := rfl
@[simp] theorem raise_draws (c : FaultCause) (s : State) : (s.raise c).draws = s.draws := rfl

/-! ### setReg -/

@[simp] theorem setReg_V (s : State) (x : Reg) (b : Byte) : (s.setReg x b).V = (s.V.set x.val b) := rfl
@[simp] theorem setReg_I (s : State) (x : Reg) (b : Byte) : (s.setReg x b).I = s.I := rfl
@[simp] theorem setReg_pc (s : State) (x : Reg) (b : Byte) : (s.setReg x b).pc = s.pc := rfl
@[simp] theorem setReg_stack (s : State) (x : Reg) (b : Byte) : (s.setReg x b).stack = s.stack := rfl
@[simp] theorem setReg_sp (s : State) (x : Reg) (b : Byte) : (s.setReg x b).sp = s.sp := rfl
@[simp] theorem setReg_DT (s : State) (x : Reg) (b : Byte) : (s.setReg x b).DT = s.DT := rfl
@[simp] theorem setReg_ST (s : State) (x : Reg) (b : Byte) : (s.setReg x b).ST = s.ST := rfl
@[simp] theorem setReg_mem (s : State) (x : Reg) (b : Byte) : (s.setReg x b).mem = s.mem := rfl
@[simp] theorem setReg_video (s : State) (x : Reg) (b : Byte) : (s.setReg x b).video = s.video := rfl
@[simp] theorem setReg_keys (s : State) (x : Reg) (b : Byte) : (s.setReg x b).keys = s.keys := rfl
@[simp] theorem setReg_opcode (s : State) (x : Reg) (b : Byte) : (s.setReg x b).opcode = s.opcode := rfl
@[simp] theorem setReg_fault (s : State) (x : Reg) (b : Byte) : (s.setReg x b).fault = s.fault := rfl
@[simp] theorem setReg_cfg (s : State) (x : Reg) (b : Byte) : (s.setReg x b).cfg = s.cfg := rfl
@[simp] theorem setReg_randIn (s : State) (x : Reg) (b : Byte) : (s.setReg x b).randIn = s.randIn := rfl
@[simp] theorem setReg_draws (s : State) (x : Reg) (b : Byte) : (s.setReg x b).draws = s.draws := rfl

/-! ### setI -/

@[simp] theorem setI_V (s : State) (w : Word) : (s.setI w).V = s.V := rfl
@[simp] theorem setI_I (s : State) (w : Word) : (s.setI w).I = (w) := rfl
@[simp] theorem setI_pc (s : State) (w : Word) : (s.setI w).pc = s.pc := rfl
@[simp] theorem setI_stack (s : State) (w : Word) : (s.setI w).stack = s.stack := rfl
@[simp] theorem setI_sp (s : State) (w : Word) : (s.setI w).sp = s.sp := rfl
@[simp] theorem setI_DT (s : State) (w : Word) : (s.setI w).DT = s.DT := rfl
@[simp] theorem setI_ST (s : State) (w : Word) : (s.setI w).ST = s.ST := rfl
@[simp] theorem setI_mem (s : State) (w : Word) : (s.setI w).mem = s.mem := rfl
@[simp] theorem setI_video (s : State) (w : Word) : (s.setI w).video = s.video := rfl
@[simp] theorem setI_keys (s : State) (w : Word) : (s.setI w).keys = s.keys := rfl
@[simp] theorem setI_opcode (s : State) (w : Word) : (s.setI w).opcode = s.opcode := rfl
@[simp] theorem setI_fault (s : State) (w : Word) : (s.setI w).fault = s.fault := rfl
@[simp] theorem setI_cfg (s : State) (w : Word) : (s.setI w).cfg = s.cfg := rfl
@[simp] theorem setI_randIn (s : State) (w : Word) : (s.setI w).randIn = s.randIn := rfl
@[simp] theorem setI_draws (s : State) (w : Word) : (s.setI w).draws = s.draws := rfl

/-! ### setPc -/

@[simp] theorem setPc_V (s : State) (w : Word) : (s.setPc w).V = s.V := rfl
@[simp] theorem setPc_I (s : State) (w : Word) : (s.setPc w).I = s.I := rfl
@[simp] theorem setPc_pc (s : State) (w : Word) : (s.setPc w).pc = (w) := rfl
@[simp] theorem setPc_stack (s : State) (w : Word) : (s.setPc w).stack = s.stack := rfl
@[simp] theorem setPc_sp (s : State) (w : Word) : (s.setPc w).sp = s.sp := rfl
@[simp] theorem setPc_DT (s : State) (w : Word) : (s.setPc w).DT = s.DT := rfl
@[simp] theorem setPc_ST (s : State) (w : Word) : (s.setPc w).ST = s.ST := rfl
@[simp] theorem setPc_mem (s : State) (w : Word) : (s.setPc w).mem = s.mem := rfl
@[simp] theorem setPc_video (s : State) (w : Word) : (s.setPc w).video = s.video := rfl
@[simp] theorem setPc_keys (s : State) (w : Word) : (s.setPc w).keys = s.keys := rfl
@[simp] theorem setPc_opcode (s : State) (w : Word) : (s.setPc w).opcode = s.opcode := rfl
@[simp] theorem setPc_fault (s : State) (w : Word) : (s.setPc w).fault = s.fault := rfl
@[simp] theorem setPc_cfg (s : State) (w : Word) : (s.setPc w).cfg = s.cfg := rfl
@[simp] theorem setPc_randIn (s : State) (w : Word) : (s.setPc w).randIn = s.randIn := rfl
@[simp] theorem setPc_draws (s : State) (w : Word) : (s.setPc w).draws = s.draws := rfl

/-! ### setDT -/

@[simp] theorem setDT_V (s : State) (b : Byte) : (s.setDT b).V = s.V := rfl
@[simp] theorem setDT_I (s : State) (b : Byte) : (s.setDT b).I = s.I := rfl
@[simp] theorem setDT_pc (s : State) (b : Byte) : (s.setDT b).pc = s.pc := rfl
@[simp] theorem setDT_stack (s : State) (b : Byte) : (s.setDT b).stack = s.stack := rfl
@[simp] theorem setDT_sp (s : State) (b : Byte) : (s.setDT b).sp = s.sp := rfl
@[simp] theorem setDT_DT (s : State) (b : Byte) : (s.setDT b).DT = (b) := rfl
@[simp] theorem setDT_ST (s : State) (b : Byte) : (s.setDT b).ST = s.ST := rfl
@[simp] theorem setDT_mem (s : State) (b : Byte) : (s.setDT b).mem = s.mem := rfl
@[simp] theorem setDT_video (s : State) (b : Byte) : (s.setDT b).video = s.video := rfl
@[simp] theorem setDT_keys (s : State) (b : Byte) : (s.setDT b).keys = s.keys := rfl
@[simp] theorem setDT_opcode (s : State) (b : Byte) : (s.setDT b).opcode = s.opcode := rfl
@[simp] theorem setDT_fault (s : State) (b : Byte) : (s.setDT b).fault = s.fault := rfl
@[simp] theorem setDT_cfg (s : State) (b : Byte) : (s.setDT b).cfg = s.cfg := rfl
@[simp] theorem setDT_randIn (s : State) (b : Byte) : (s.setDT b).randIn = s.randIn := rfl
@[simp] theorem setDT_draws (s : State) (b : Byte) : (s.setDT b).draws = s.draws := rfl

/-! ### setST -/

@[simp] theorem setST_V (s : State) (b : Byte) : (s.setST b).V = s.V := rfl
@[simp] theorem setST_I (s : State) (b : Byte) : (s.setST b).I = s.I := rfl
@[simp] theorem setST_pc (s : State) (b : Byte) : (s.setST b).pc = s.pc := rfl
@[simp] theorem setST_stack (s : State) (b : Byte) : (s.setST b).stack = s.stack := rfl
@[simp] theorem setST_sp (s : State) (b : Byte) : (s.setST b).sp = s.sp := rfl
@[simp] theorem setST_DT (s : State) (b : Byte) : (s.setST b).DT = s.DT := rfl
@[simp] theorem setST_ST (s : State) (b : Byte) : (s.setST b).ST = (b) := rfl
@[simp] theorem setST_mem (s : State) (b : Byte) : (s.setST b).mem = s.mem := rfl
@[simp] theorem setST_video (s : State) (b : Byte) : (s.setST b).video = s.video := rfl
@[simp] theorem setST_keys (s : State) (b : Byte) : (s.setST b).keys = s.keys := rfl
@[simp] theorem setST_opcode (s : State) (b : Byte) : (s.setST b).opcode = s.opcode := rfl
@[simp] theorem setST_fault (s : State) (b : Byte) : (s.setST b).fault = s.fault := rfl
@[simp] theorem setST_cfg (s : State) (b : Byte) : (s.setST b).cfg = s.cfg := rfl
@[simp] theorem setST_randIn (s : State) (b : Byte) : (s.setST b).randIn = s.randIn := rfl
@[simp] theorem setST_draws (s : State) (b : Byte) : (s.setST b).draws = s.draws := rfl

/-! ### skip -/

@[simp] theorem skip_V (s : State) : s.skip.V = s.V := rfl
@[simp] theorem skip_I (s : State) : s.skip.I = s.I := rfl
@[simp] theorem skip_pc (s : State) : s.skip.pc = (s.pc + 2) := rfl
@[simp] theorem skip_stack (s : State) : s.skip.stack = s.stack := rfl
@[simp] theorem skip_sp (s : State) : s.skip.sp = s.sp := rfl
@[simp] theorem skip_DT (s : State) : s.skip.DT = s.DT := rfl
@[simp] theorem skip_ST (s : State) : s.skip.ST = s.ST := rfl
@[simp] theorem skip_mem (s : State) : s.skip.mem = s.mem := rfl
@[simp] theorem skip_video (s : State) : s.skip.video = s.video := rfl
@[simp] theorem skip_keys (s : State) : s.skip.keys = s.keys := rfl
@[simp] theorem skip_opcode (s : State) : s.skip.opcode = s.opcode := rfl
@[simp] theorem skip_fault (s : State) : s.skip.fault = s.fault := rfl
@[simp] theorem skip_cfg (s : State) : s.skip.cfg = s.cfg := rfl
@[simp] theorem skip_randIn (s : State) : s.skip.randIn = s.randIn := rfl
@[simp] theorem skip_draws (s : State) : s.skip.draws = s.draws := rfl

/-! ### poke -/

@[simp] theorem poke_V (s : State) (a : Nat) (v : Byte) : (s.poke a v).V = s.V := rfl
@[simp] theorem poke_I (s : State) (a : Nat) (v : Byte) : (s.poke a v).I = s.I := rfl
@[simp] theorem poke_pc (s : State) (a : Nat) (v : Byte) : (s.poke a v).pc = s.pc := rfl
@[simp] theorem poke_stack (s : State) (a : Nat) (v : Byte) : (s.poke a v).stack = s.stack := rfl
@[simp] theorem poke_sp (s : State) (a : Nat) (v : Byte) : (s.poke a v).sp = s.sp := rfl
@[simp] theorem poke_DT (s : State) (a : Nat) (v : Byte) : (s.poke a v).DT = s.DT := rfl
@[simp] theorem poke_ST (s : State) (a : Nat) (v : Byte) : (s.poke a v).ST = s.ST := rfl
@[simp] theorem poke_mem (s : State) (a : Nat) (v : Byte) : (s.poke a v).mem = (Memory.write s.cfg s.mem a v) := rfl
@[simp] theorem poke_video (s : State) (a : Nat) (v : Byte) : (s.poke a v).video = s.video := rfl
@[simp] theorem poke_keys (s : State) (a : Nat) (v : Byte) : (s.poke a v).keys = s.keys := rfl
@[simp] theorem poke_opcode (s : State) (a : Nat) (v : Byte) : (s.poke a v).opcode = s.opcode := rfl
@[simp] theorem poke_fault (s : State) (a : Nat) (v : Byte) : (s.poke a v).fault = s.fault := rfl
@[simp] theorem poke_cfg (s : State) (a : Nat) (v : Byte) : (s.poke a v).cfg = s.cfg := rfl
@[simp] theorem poke_randIn (s : State) (a : Nat) (v : Byte) : (s.poke a v).randIn = s.randIn := rfl
@[simp] theorem poke_draws (s : State) (a : Nat) (v : Byte) : (s.poke a v).draws = s.draws := rfl

/-! ### clearKey -/

@[simp] theorem clearKey_V (s : State) (k : Fin 16) : (s.clearKey k).V = s.V := rfl
@[simp] theorem clearKey_I (s : State) (k : Fin 16) : (s.clearKey k).I = s.I := rfl
@[simp] theorem clearKey_pc (s : State) (k : Fin 16) : (s.clearKey k).pc = s.pc := rfl
@[simp] theorem clearKey_stack (s : State) (k : Fin 16) : (s.clearKey k).stack = s.stack := rfl
@[simp] theorem clearKey_sp (s : State) (k : Fin 16) : (s.clearKey k).sp = s.sp := rfl
@[simp] theorem clearKey_DT (s : State) (k : Fin 16) : (s.clearKey k).DT = s.DT := rfl
@[simp] theorem clearKey_ST (s : State) (k : Fin 16) : (s.clearKey k).ST = s.ST := rfl
@[simp] theorem clearKey_mem (s : State) (k : Fin 16) : (s.clearKey k).mem = s.mem := rfl
@[simp] theorem clearKey_video (s : State) (k : Fin 16) : (s.clearKey k).video = s.video := rfl
@[simp] theorem clearKey_keys (s : State) (k : Fin 16) : (s.clearKey k).keys = (s.keys.set k.val false) := rfl
@[simp] theorem clearKey_opcode (s : State) (k : Fin 16) : (s.clearKey k).opcode = s.opcode := rfl
@[simp] theorem clearKey_fault (s : State) (k : Fin 16) : (s.clearKey k).fault = s.fault := rfl
@[simp] theorem clearKey_cfg (s : State) (k : Fin 16) : (s.clearKey k).cfg = s.cfg := rfl
@[simp] theorem clearKey_randIn (s : State) (k : Fin 16) : (s.clearKey k).randIn = s.randIn := rfl
@[simp] theorem clearKey_draws (s : State) (k : Fin 16) : (s.clearKey k).draws = s.draws := rfl

/-! ### togglePixel -/

@[simp] theorem togglePixel_V (s : State) (p : Fin 2048) : (s.togglePixel p).V = s.V := rfl
@[simp] theorem togglePixel_I (s : State) (p : Fin 2048) : (s.togglePixel p).I = s.I := rfl
@[simp] theorem togglePixel_pc (s : State) (p : Fin 2048) : (s.togglePixel p).pc = s.pc := rfl
@[simp] theorem togglePixel_stack (s : State) (p : Fin 2048) : (s.togglePixel p).stack = s.stack := rfl
@[simp] theorem togglePixel_sp (s : State) (p : Fin 2048) : (s.togglePixel p).sp = s.sp := rfl
@[simp] theorem togglePixel_DT (s : State) (p : Fin 2048) : (s.togglePixel p).DT = s.DT := rfl
@[simp] theorem togglePixel_ST (s : State) (p : Fin 2048) : (s.togglePixel p).ST = s.ST := rfl
@[simp] theorem togglePixel_mem (s : State) (p : Fin 2048) : (s.togglePixel p).mem = s.mem := rfl
@[simp] theorem togglePixel_video (s : State) (p : Fin 2048) : (s.togglePixel p).video = (Screen.toggle s.video p) := rfl
@[simp] theorem togglePixel_keys (s : State) (p : Fin 2048) : (s.togglePixel p).keys = s.keys := rfl
@[simp] theorem togglePixel_opcode (s : State) (p : Fin 2048) : (s.togglePixel p).opcode = s.opcode := rfl
@[simp] theorem togglePixel_fault (s : State) (p : Fin 2048) : (s.togglePixel p).fault = s.fault := rfl
@[simp] theorem togglePixel_cfg (s : State) (p : Fin 2048) : (s.togglePixel p).cfg = s.cfg := rfl
@[simp] theorem togglePixel_randIn (s : State) (p : Fin 2048) : (s.togglePixel p).randIn = s.randIn := rfl
@[simp] theorem togglePixel_draws (s : State) (p : Fin 2048) : (s.togglePixel p).draws = s.draws := rfl

/-! ### nextDraw -/

@[simp] theorem nextDraw_V (s : State) : s.nextDraw.V = s.V := rfl
@[simp] theorem nextDraw_I (s : State) : s.nextDraw.I = s.I := rfl
@[simp] theorem nextDraw_pc (s : State) : s.nextDraw.pc = s.pc := rfl
@[simp] theorem nextDraw_stack (s : State) : s.nextDraw.stack = s.stack := rfl
@[simp] theorem nextDraw_sp (s : State) : s.nextDraw.sp = s.sp := rfl
@[simp] theorem nextDraw_DT (s : State) : s.nextDraw.DT = s.DT := rfl
@[simp] theorem nextDraw_ST (s : State) : s.nextDraw.ST = s.ST := rfl
@[simp] theorem nextDraw_mem (s : State) : s.nextDraw.mem = s.mem := rfl
@[simp] theorem nextDraw_video (s : State) : s.nextDraw.video = s.video := rfl
@[simp] theorem nextDraw_keys (s : State) : s.nextDraw.keys = s.keys := rfl
@[simp] theorem nextDraw_opcode (s : State) : s.nextDraw.opcode = s.opcode := rfl
@[simp] theorem nextDraw_fault (s : State) : s.nextDraw.fault = s.fault := rfl
@[simp] theorem nextDraw_cfg (s : State) : s.nextDraw.cfg = s.cfg := rfl
@[simp] theorem nextDraw_randIn (s : State) : s.nextDraw.randIn = (none) := rfl
@[simp] theorem nextDraw_draws (s : State) : s.nextDraw.draws = (s.draws + 1) := rfl

/-! ### timerTick -/

@[simp] theorem timerTick_V (s : State) : (timerTick s).V = s.V := rfl
@[simp] theorem timerTick_I (s : State) : (timerTick s).I = s.I := rfl
@[simp] theorem timerTick_pc (s : State) : (timerTick s).pc = s.pc := rfl
@[simp] theorem timerTick_stack (s : State) : (timerTick s).stack = s.stack := rfl
@[simp] theorem timerTick_sp (s : State) : (timerTick s).sp = s.sp := rfl
@[simp] theorem timerTick_DT (s : State) : (timerTick s).DT = (tick s.DT) := rfl
@[simp] theorem timerTick_ST (s : State) : (timerTick s).ST = (tick s.ST) := rfl
@[simp] theorem timerTick_mem (s : State) : (timerTick s).mem = s.mem := rfl
@[simp] theorem timerTick_video (s : State) : (timerTick s).video = s.video := rfl
@[simp] theorem timerTick_keys (s : State) : (timerTick s).keys = s.keys := rfl
@[simp] theorem timerTick_opcode (s : State) : (timerTick s).opcode = s.opcode := rfl
@[simp] theorem timerTick_fault (s : State) : (timerTick s).fault = s.fault := rfl
@[simp] theorem timerTick_cfg (s : State) : (timerTick s).cfg = s.cfg := rfl
@[simp] theorem timerTick_randIn (s : State) : (timerTick s).randIn = s.randIn := rfl
@[simp] theorem timerTick_draws (s : State) : (timerTick s).draws = s.draws := rfl

/-! ### setFlag -/

@[simp] theorem setFlag_V (s : State) (b : Bool) : (s.setFlag b).V = (s.V.set 15 (flagByte b)) := rfl
@[simp] theorem setFlag_I (s : State) (b : Bool) : (s.setFlag b).I = s.I := rfl
@[simp] theorem setFlag_pc (s : State) (b : Bool) : (s.setFlag b).pc = s.pc := rfl
@[simp] theorem setFlag_stack (s : State) (b : Bool) : (s.setFlag b).stack = s.stack := rfl
@[simp] theorem setFlag_sp (s : State) (b : Bool) : (s.setFlag b).sp = s.sp := rfl
@[simp] theorem setFlag_DT (s : State) (b : Bool) : (s.setFlag b).DT = s.DT := rfl
@[simp] theorem setFlag_ST (s : State) (b : Bool) : (s.setFlag b).ST = s.ST := rfl
@[simp] theorem setFlag_mem (s : State) (b : Bool) : (s.setFlag b).mem = s.mem := rfl
@[simp] theorem setFlag_video (s : State) (b : Bool) : (s.setFlag b).video = s.video := rfl
@[simp] theorem setFlag_keys (s : State) (b : Bool) : (s.setFlag b).keys = s.keys := rfl
@[simp] theorem setFlag_opcode (s : State) (b : Bool) : (s.setFlag b).opcode = s.opcode := rfl
@[simp] theorem setFlag_fault (s : State) (b : Bool) : (s.setFlag b).fault = s.fault := rfl
@[simp] theorem setFlag_cfg (s : State) (b : Bool) : (s.setFlag b).cfg = s.cfg := rfl
@[simp] theorem setFlag_randIn (s : State) (b : Bool) : (s.setFlag b).randIn = s.randIn := rfl
@[simp] theorem setFlag_draws (s : State) (b : Bool) : (s.setFlag b).draws = s.draws := rfl

/-! ### skipIf -/

@[simp] theorem skipIf_V (s : State) (b : Bool) : (s.skipIf b).V = s.V := by cases b <;> rfl
@[simp] theorem skipIf_I (s : State) (b : Bool) : (s.skipIf b).I = s.I := by cases b <;> rfl
@[simp] theorem skipIf_pc (s : State) (b : Bool) : (s.skipIf b).pc = (if b then s.pc + 2 else s.pc) := by cases b <;> rfl
@[simp] theorem skipIf_stack (s : State) (b : Bool) : (s.skipIf b).stack = s.stack := by cases b <;> rfl
@[simp] theorem skipIf_sp (s : State) (b : Bool) : (s.skipIf b).sp = s.sp := by cases b <;> rfl
@[simp] theorem skipIf_DT (s : State) (b : Bool) : (s.skipIf b).DT = s.DT := by cases b <;> rfl
@[simp] theorem skipIf_ST (s : State) (b : Bool) : (s.skipIf b).ST = s.ST := by cases b <;> rfl
@[simp] theorem skipIf_mem (s : State) (b : Bool) : (s.skipIf b).mem = s.mem := by cases b <;> rfl
@[simp] theorem skipIf_video (s : State) (b : Bool) : (s.skipIf b).video = s.video := by cases b <;> rfl
@[simp] theorem skipIf_keys (s : State) (b : Bool) : (s.skipIf b).keys = s.keys := by cases b <;> rfl
@[simp] theorem skipIf_opcode (s : State) (b : Bool) : (s.skipIf b).opcode = s.opcode := by cases b <;> rfl
@[simp] theorem skipIf_fault (s : State) (b : Bool) : (s.skipIf b).fault = s.fault := by cases b <;> rfl
@[simp] theorem skipIf_cfg (s : State) (b : Bool) : (s.skipIf b).cfg = s.cfg := by cases b <;> rfl
@[simp] theorem skipIf_randIn (s : State) (b : Bool) : (s.skipIf b).randIn = s.randIn := by cases b <;> rfl
@[simp] theorem skipIf_draws (s : State) (b : Bool) : (s.skipIf b).draws = s.draws := by cases b <;> rfl

end Sys2Proof.Machine
end

