-- ==== Sys2Proof/Laws/Registers.lean ====
section
/-! SUPPORT. Reading back registers, keys and pixels after each update. -/

namespace Sys2Proof.Machine

/-! ### Registers -/

@[simp] theorem reg_setReg_self (s : State) (x : Reg) (b : Byte) : (s.setReg x b).reg x = b := by
  simp [State.reg]

theorem reg_setReg_ne (s : State) {x r : Reg} (b : Byte) (h : r ≠ x) : (s.setReg x b).reg r = s.reg r := by
  have : x.val ≠ r.val := fun e => h (Fin.ext e.symm)
  simp [State.reg, Vector.getElem_set_ne, this]

theorem reg_setReg (s : State) (x r : Reg) (b : Byte) : (s.setReg x b).reg r = if r = x then b else s.reg r := by
  split
  next h => rw [h]; exact reg_setReg_self s x b
  next h => exact reg_setReg_ne s b h

/-- A register read depends on `V` alone. -/
theorem reg_congr {s t : State} (h : t.V = s.V) (r : Reg) : t.reg r = s.reg r := by
  simp [State.reg, h]

theorem reg_setFlag (s : State) (b : Bool) (r : Reg) : (s.setFlag b).reg r = if r = regF then flagByte b else s.reg r :=
  reg_setReg s regF r (flagByte b)

/-- The flag wins: VF is the flag whatever the result register is (43_alu.md R199). -/
theorem reg_setResultThenFlag (s : State) (x r : Reg) (b : Byte) (f : Bool) :
    (s.setResultThenFlag x b f).reg r = if r = regF then flagByte f else if r = x then b else s.reg r := by
  rw [State.setResultThenFlag, reg_setFlag, reg_setReg]

@[simp] theorem reg_raise (c : FaultCause) (s : State) (r : Reg) : (s.raise c).reg r = s.reg r := rfl
@[simp] theorem reg_setI (s : State) (w : Word) (r : Reg) : (s.setI w).reg r = s.reg r := rfl
@[simp] theorem reg_setPc (s : State) (w : Word) (r : Reg) : (s.setPc w).reg r = s.reg r := rfl
@[simp] theorem reg_setDT (s : State) (b : Byte) (r : Reg) : (s.setDT b).reg r = s.reg r := rfl
@[simp] theorem reg_setST (s : State) (b : Byte) (r : Reg) : (s.setST b).reg r = s.reg r := rfl
@[simp] theorem reg_skipIf (s : State) (b : Bool) (r : Reg) : (s.skipIf b).reg r = s.reg r := by cases b <;> rfl
@[simp] theorem reg_poke (s : State) (a : Nat) (v : Byte) (r : Reg) : (s.poke a v).reg r = s.reg r := rfl
@[simp] theorem reg_clearKey (s : State) (k : Fin 16) (r : Reg) : (s.clearKey k).reg r = s.reg r := rfl
@[simp] theorem reg_togglePixel (s : State) (p : Fin 2048) (r : Reg) : (s.togglePixel p).reg r = s.reg r := rfl
@[simp] theorem reg_timerTick (s : State) (r : Reg) : (timerTick s).reg r = s.reg r := rfl
@[simp] theorem reg_nextDraw (s : State) (r : Reg) : s.nextDraw.reg r = s.reg r := rfl

theorem mem_regsThrough (x r : Reg) : r ∈ regsThrough x ↔ r ≤ x := by
  simp [regsThrough]

theorem regsThrough_nodup (x : Reg) : (regsThrough x).Nodup :=
  (List.nodup_finRange 16).filter _

/-! ### Keys -/

theorem key_clearKey (s : State) (k j : Fin 16) : (s.clearKey k).key j = if j = k then false else s.key j := by
  by_cases h : j = k
  · subst h; simp [State.key]
  · have : k.val ≠ j.val := fun e => h (Fin.ext e.symm)
    simp [State.key, h, Vector.getElem_set_ne, this]

/-- A key read depends on `keys` alone. -/
theorem key_congr {s t : State} (h : t.keys = s.keys) (k : Fin 16) : t.key k = s.key k := by
  simp [State.key, h]

/-! ### Pixels -/

theorem pixel_toggle (v : Screen) (p q : Fin 2048) :
    Screen.pixel (Screen.toggle v p) q = if q = p then !Screen.pixel v p else Screen.pixel v q := by
  unfold Screen.toggle Screen.pixel
  by_cases h : q = p
  · subst h; simp
  · rw [if_neg h]
    have hne : q.val ≠ p.val := fun e => h (Fin.ext e)
    by_cases hr : p.val / 64 = q.val / 64
    · have hc : p.val % 64 ≠ q.val % 64 := by omega
      simp [hr, Vector.getElem_set_ne, hc]
    · simp [Vector.getElem_set_ne, hr]

@[simp] theorem pixel_blank (p : Fin 2048) : Screen.pixel Screen.blank p = false := by
  simp [Screen.pixel, Screen.blank]

theorem pixel_togglePixel (s : State) (p q : Fin 2048) :
    (s.togglePixel p).pixel q = if q = p then !s.pixel p else s.pixel q :=
  pixel_toggle s.video p q

/-- A pixel read depends on `video` alone. -/
theorem pixel_congr {s t : State} (h : t.video = s.video) (p : Fin 2048) : t.pixel p = s.pixel p := by
  simp [State.pixel, h]

end Sys2Proof.Machine
end

