-- ==== Sys2Proof/Laws/Memory.lean ====
section
/-! SUPPORT. Memory: a read after a write, and that every memory operation keeps the canonical form. -/

namespace Sys2Proof.Machine

/-! ### Reads of an erased, an inserted and a written memory -/

theorem read_erase_self (c : Config) (m : Memory) (a : Nat) :
    Memory.read c (Memory.erase m a) a = Memory.unlisted c a := by
  induction m with
  | nil => rfl
  | cons cell m ih =>
    obtain ⟨k, b⟩ := cell
    by_cases h : k = a
    · simpa [Memory.erase, h] using ih
    · simpa [Memory.erase, Memory.read, h] using ih

theorem read_erase_ne (c : Config) (m : Memory) {a d : Nat} (hd : d ≠ a) :
    Memory.read c (Memory.erase m a) d = Memory.read c m d := by
  induction m with
  | nil => rfl
  | cons cell m ih =>
    obtain ⟨k, b⟩ := cell
    by_cases h : k = a
    · subst h
      simpa [Memory.erase, Memory.read, Ne.symm hd] using ih
    · by_cases hk : k = d
      · subst hk; simp [Memory.erase, Memory.read, h]
      · simpa [Memory.erase, Memory.read, h, hk] using ih

/-- An entry not already listed is what its address reads as once inserted. -/
theorem read_insert_self (c : Config) (m : Memory) (a : Nat) (v : Byte) (h : ∀ cell ∈ m, cell.1 ≠ a) :
    Memory.read c (Memory.insert m a v) a = v := by
  induction m with
  | nil => simp [Memory.insert, Memory.read]
  | cons cell m ih =>
    obtain ⟨k, b⟩ := cell
    have hk : k ≠ a := h (k, b) (by simp)
    have ih' := ih (fun cell hc => h cell (by simp [hc]))
    by_cases hlt : a < k
    · simp [Memory.insert, Memory.read, hlt]
    · simpa [Memory.insert, Memory.read, hlt, hk] using ih'

theorem read_insert_ne (c : Config) (m : Memory) {a d : Nat} (v : Byte) (hd : d ≠ a) :
    Memory.read c (Memory.insert m a v) d = Memory.read c m d := by
  induction m with
  | nil => simp [Memory.insert, Memory.read, Ne.symm hd]
  | cons cell m ih =>
    obtain ⟨k, b⟩ := cell
    by_cases hlt : a < k
    · simp [Memory.insert, Memory.read, hlt, Ne.symm hd]
    · by_cases hk : k = d
      · subst hk; simp [Memory.insert, Memory.read, hlt]
      · simpa [Memory.insert, Memory.read, hlt, hk] using ih

theorem erase_no_entry (m : Memory) (a : Nat) : ∀ cell ∈ Memory.erase m a, cell.1 ≠ a := by
  intro cell h
  simp [Memory.erase] at h
  exact h.2

/-- A read after a write to the same address gives the byte written. -/
theorem read_write_self (c : Config) (m : Memory) (a : Nat) (v : Byte) :
    Memory.read c (Memory.write c m a v) a = v := by
  unfold Memory.write
  split
  next h => rw [read_erase_self, h]
  next => exact read_insert_self c _ a v (erase_no_entry m a)

/-- A write leaves every other address alone. -/
theorem read_write_ne (c : Config) (m : Memory) {a d : Nat} (v : Byte) (hd : d ≠ a) :
    Memory.read c (Memory.write c m a v) d = Memory.read c m d := by
  unfold Memory.write
  split
  next => exact read_erase_ne c m hd
  next => rw [read_insert_ne c _ v hd, read_erase_ne c m hd]

/-! ### The canonical form -/

theorem wfFrom_mono (c : Config) {lo lo' : Nat} (hlo : lo' ≤ lo) (m : Memory) (h : Memory.wfFrom c lo m = true) :
    Memory.wfFrom c lo' m = true := by
  cases m with
  | nil => rfl
  | cons cell m =>
    obtain ⟨k, b⟩ := cell
    simp [Memory.wfFrom] at h ⊢
    exact ⟨⟨⟨by omega, h.1.1.2⟩, h.1.2⟩, h.2⟩

theorem wfFrom_erase (c : Config) (lo : Nat) (m : Memory) (a : Nat) (h : Memory.wfFrom c lo m = true) :
    Memory.wfFrom c lo (Memory.erase m a) = true := by
  induction m generalizing lo with
  | nil => rfl
  | cons cell m ih =>
    obtain ⟨k, b⟩ := cell
    simp [Memory.wfFrom] at h
    by_cases hk : k = a
    · have := ih lo (wfFrom_mono c (by omega) m h.2)
      simpa [Memory.erase, hk] using this
    · have := ih (k + 1) h.2
      simp [Memory.erase, hk, Memory.wfFrom]
      exact ⟨⟨⟨h.1.1.1, h.1.1.2⟩, h.1.2⟩, by simpa [Memory.erase] using this⟩

theorem wfFrom_insert (c : Config) (lo : Nat) (m : Memory) (a : Nat) (v : Byte) (h : Memory.wfFrom c lo m = true)
    (hlo : lo ≤ a) (ha : a < 4096) (hv : v ≠ Memory.unlisted c a) (hm : ∀ cell ∈ m, cell.1 ≠ a) :
    Memory.wfFrom c lo (Memory.insert m a v) = true := by
  induction m generalizing lo with
  | nil => simp [Memory.insert, Memory.wfFrom, hlo, ha, hv]
  | cons cell m ih =>
    obtain ⟨k, b⟩ := cell
    have hk : k ≠ a := hm (k, b) (by simp)
    simp [Memory.wfFrom] at h
    by_cases hlt : a < k
    · simp [Memory.insert, hlt, Memory.wfFrom, hlo, ha, hv, h]
    · have := ih (k + 1) h.2 (by omega) (fun cell hc => hm cell (by simp [hc]))
      simp [Memory.insert, hlt, Memory.wfFrom]
      exact ⟨⟨⟨h.1.1.1, h.1.1.2⟩, h.1.2⟩, this⟩

/-- A write in range keeps the canonical form. -/
theorem wf_write (c : Config) (m : Memory) (a : Nat) (v : Byte) (h : Memory.wf c m = true) (ha : a < 4096) :
    Memory.wf c (Memory.write c m a v) = true := by
  unfold Memory.wf at *
  unfold Memory.write
  split
  next => exact wfFrom_erase c 0 m a h
  next hv => exact wfFrom_insert c 0 _ a v (wfFrom_erase c 0 m a h) (by omega) ha hv (erase_no_entry m a)

/-- Reset memory, which lists nothing, is in canonical form. -/
theorem wf_construct (cfg : Config) : Memory.wf (State.construct cfg).cfg (State.construct cfg).mem = true := rfl

theorem wf_reset : Memory.wf State.reset.cfg State.reset.mem = true := rfl

/-! ### The state's bytes -/

@[simp] theorem peek_poke_self (s : State) (a : Nat) (v : Byte) : (s.poke a v).peek a = v :=
  read_write_self s.cfg s.mem a v

theorem peek_poke_ne (s : State) {a d : Nat} (v : Byte) (h : d ≠ a) : (s.poke a v).peek d = s.peek d :=
  read_write_ne s.cfg s.mem v h

/-- A byte read depends on `mem` and the font alone. -/
theorem peek_congr {s t : State} (hm : t.mem = s.mem) (hc : t.cfg = s.cfg) (a : Nat) : t.peek a = s.peek a := by
  simp [State.peek, hm, hc]

@[simp] theorem peek_raise (c : FaultCause) (s : State) (a : Nat) : (s.raise c).peek a = s.peek a := rfl
@[simp] theorem peek_setReg (s : State) (x : Reg) (b : Byte) (a : Nat) : (s.setReg x b).peek a = s.peek a := rfl
@[simp] theorem peek_setFlag (s : State) (b : Bool) (a : Nat) : (s.setFlag b).peek a = s.peek a := rfl
@[simp] theorem peek_setI (s : State) (w : Word) (a : Nat) : (s.setI w).peek a = s.peek a := rfl
@[simp] theorem peek_setPc (s : State) (w : Word) (a : Nat) : (s.setPc w).peek a = s.peek a := rfl
@[simp] theorem peek_togglePixel (s : State) (p : Fin 2048) (a : Nat) : (s.togglePixel p).peek a = s.peek a := rfl

end Sys2Proof.Machine
end

