-- ==== Sys2Proof/Laws/Ops.lean ====
section
/-! SUPPORT. One spec lemma for each shared operation, saying everything it can do, and the fields each leaves alone. -/

namespace Sys2Proof.Machine

/-! ### Data accesses and fetches (20_memory.md R52, R53, R54) -/

theorem memRead_in {a : Nat} (h : a ≤ 0xFFF) (s : State) : memRead a s = (s.peek a, s) := by simp [memRead, h]

theorem memRead_out {a : Nat} (h : ¬ a ≤ 0xFFF) (s : State) : memRead a s = (0x00, s.raise .readOob) := by simp [memRead, h]

theorem memWrite_in {a : Nat} (h : a ≤ 0xFFF) (v : Byte) (s : State) : memWrite a v s = s.poke a v := by simp [memWrite, h]

theorem memWrite_out {a : Nat} (h : ¬ a ≤ 0xFFF) (v : Byte) (s : State) : memWrite a v s = s.raise .writeOob := by
  simp [memWrite, h]

theorem fetchRead_in {a : Nat} (h : a ≤ 0xFFF) (s : State) : fetchRead a s = (s.peek a, s) := by simp [fetchRead, h]

theorem fetchRead_out {a : Nat} (h : ¬ a ≤ 0xFFF) (s : State) : fetchRead a s = (0x00, s.raise .fetchOob) := by
  simp [fetchRead, h]

/-- Every read of the machine sees `mem[a]` in range and 0x00 out of range. -/
theorem memRead_fst (a : Nat) (s : State) : (memRead a s).1 = if a ≤ 0xFFF then s.peek a else 0x00 := by
  unfold memRead; split <;> rfl

theorem memRead_snd (a : Nat) (s : State) : (memRead a s).2 = if a ≤ 0xFFF then s else s.raise .readOob := by
  unfold memRead; split <;> rfl

theorem fetchRead_fst (a : Nat) (s : State) : (fetchRead a s).1 = if a ≤ 0xFFF then s.peek a else 0x00 := by
  unfold fetchRead; split <;> rfl

theorem fetchRead_snd (a : Nat) (s : State) : (fetchRead a s).2 = if a ≤ 0xFFF then s else s.raise .fetchOob := by
  unfold fetchRead; split <;> rfl

/-- A byte after a one-byte write: the byte written where the write is in range and hits it, the old byte elsewhere. -/
theorem peek_memWrite (a d : Nat) (v : Byte) (s : State) :
    (memWrite a v s).peek d = if d = a ∧ a ≤ 0xFFF then v else s.peek d := by
  by_cases ha : a ≤ 0xFFF
  · by_cases hd : d = a
    · subst hd; simp [memWrite_in ha, ha]
    · simp [memWrite_in ha, hd, peek_poke_ne]
  · simp [memWrite_out ha, ha]

@[simp] theorem peek_memRead (a d : Nat) (s : State) : (memRead a s).2.peek d = s.peek d := by
  unfold memRead; split <;> rfl

/-- The index of `KeyRead` in range (44_keys_timers.md R222). -/
theorem keyRead_in {k : Byte} (h : k.toNat ≤ 15) (s : State) : keyRead k s = (s.key ⟨k.toNat, by omega⟩, s) := by
  simp [keyRead, h]

theorem keyRead_out {k : Byte} (h : ¬ k.toNat ≤ 15) (s : State) : keyRead k s = (false, s.raise .keyOob) := by
  simp [keyRead, h]

/-! ### Fields that memRead leaves alone -/

@[simp] theorem memRead_V (a : Nat) (s : State) : (memRead a s).2.V = s.V := by
  unfold memRead; split <;> rfl
@[simp] theorem memRead_I (a : Nat) (s : State) : (memRead a s).2.I = s.I := by
  unfold memRead; split <;> rfl
@[simp] theorem memRead_pc (a : Nat) (s : State) : (memRead a s).2.pc = s.pc := by
  unfold memRead; split <;> rfl
@[simp] theorem memRead_stack (a : Nat) (s : State) : (memRead a s).2.stack = s.stack := by
  unfold memRead; split <;> rfl
@[simp] theorem memRead_sp (a : Nat) (s : State) : (memRead a s).2.sp = s.sp := by
  unfold memRead; split <;> rfl
@[simp] theorem memRead_DT (a : Nat) (s : State) : (memRead a s).2.DT = s.DT := by
  unfold memRead; split <;> rfl
@[simp] theorem memRead_ST (a : Nat) (s : State) : (memRead a s).2.ST = s.ST := by
  unfold memRead; split <;> rfl
@[simp] theorem memRead_mem (a : Nat) (s : State) : (memRead a s).2.mem = s.mem := by
  unfold memRead; split <;> rfl
@[simp] theorem memRead_video (a : Nat) (s : State) : (memRead a s).2.video = s.video := by
  unfold memRead; split <;> rfl
@[simp] theorem memRead_keys (a : Nat) (s : State) : (memRead a s).2.keys = s.keys := by
  unfold memRead; split <;> rfl
@[simp] theorem memRead_opcode (a : Nat) (s : State) : (memRead a s).2.opcode = s.opcode := by
  unfold memRead; split <;> rfl
@[simp] theorem memRead_cfg (a : Nat) (s : State) : (memRead a s).2.cfg = s.cfg := by
  unfold memRead; split <;> rfl
@[simp] theorem memRead_randIn (a : Nat) (s : State) : (memRead a s).2.randIn = s.randIn := by
  unfold memRead; split <;> rfl
@[simp] theorem memRead_draws (a : Nat) (s : State) : (memRead a s).2.draws = s.draws := by
  unfold memRead; split <;> rfl

/-! ### Fields that memWrite leaves alone -/

@[simp] theorem memWrite_V (a : Nat) (v : Byte) (s : State) : (memWrite a v s).V = s.V := by
  unfold memWrite; split <;> rfl
@[simp] theorem memWrite_I (a : Nat) (v : Byte) (s : State) : (memWrite a v s).I = s.I := by
  unfold memWrite; split <;> rfl
@[simp] theorem memWrite_pc (a : Nat) (v : Byte) (s : State) : (memWrite a v s).pc = s.pc := by
  unfold memWrite; split <;> rfl
@[simp] theorem memWrite_stack (a : Nat) (v : Byte) (s : State) : (memWrite a v s).stack = s.stack := by
  unfold memWrite; split <;> rfl
@[simp] theorem memWrite_sp (a : Nat) (v : Byte) (s : State) : (memWrite a v s).sp = s.sp := by
  unfold memWrite; split <;> rfl
@[simp] theorem memWrite_DT (a : Nat) (v : Byte) (s : State) : (memWrite a v s).DT = s.DT := by
  unfold memWrite; split <;> rfl
@[simp] theorem memWrite_ST (a : Nat) (v : Byte) (s : State) : (memWrite a v s).ST = s.ST := by
  unfold memWrite; split <;> rfl
@[simp] theorem memWrite_video (a : Nat) (v : Byte) (s : State) : (memWrite a v s).video = s.video := by
  unfold memWrite; split <;> rfl
@[simp] theorem memWrite_keys (a : Nat) (v : Byte) (s : State) : (memWrite a v s).keys = s.keys := by
  unfold memWrite; split <;> rfl
@[simp] theorem memWrite_opcode (a : Nat) (v : Byte) (s : State) : (memWrite a v s).opcode = s.opcode := by
  unfold memWrite; split <;> rfl
@[simp] theorem memWrite_cfg (a : Nat) (v : Byte) (s : State) : (memWrite a v s).cfg = s.cfg := by
  unfold memWrite; split <;> rfl
@[simp] theorem memWrite_randIn (a : Nat) (v : Byte) (s : State) : (memWrite a v s).randIn = s.randIn := by
  unfold memWrite; split <;> rfl
@[simp] theorem memWrite_draws (a : Nat) (v : Byte) (s : State) : (memWrite a v s).draws = s.draws := by
  unfold memWrite; split <;> rfl

/-! ### Fields that fetchRead leaves alone -/

@[simp] theorem fetchRead_V (a : Nat) (s : State) : (fetchRead a s).2.V = s.V := by
  unfold fetchRead; split <;> rfl
@[simp] theorem fetchRead_I (a : Nat) (s : State) : (fetchRead a s).2.I = s.I := by
  unfold fetchRead; split <;> rfl
@[simp] theorem fetchRead_pc (a : Nat) (s : State) : (fetchRead a s).2.pc = s.pc := by
  unfold fetchRead; split <;> rfl
@[simp] theorem fetchRead_stack (a : Nat) (s : State) : (fetchRead a s).2.stack = s.stack := by
  unfold fetchRead; split <;> rfl
@[simp] theorem fetchRead_sp (a : Nat) (s : State) : (fetchRead a s).2.sp = s.sp := by
  unfold fetchRead; split <;> rfl
@[simp] theorem fetchRead_DT (a : Nat) (s : State) : (fetchRead a s).2.DT = s.DT := by
  unfold fetchRead; split <;> rfl
@[simp] theorem fetchRead_ST (a : Nat) (s : State) : (fetchRead a s).2.ST = s.ST := by
  unfold fetchRead; split <;> rfl
@[simp] theorem fetchRead_mem (a : Nat) (s : State) : (fetchRead a s).2.mem = s.mem := by
  unfold fetchRead; split <;> rfl
@[simp] theorem fetchRead_video (a : Nat) (s : State) : (fetchRead a s).2.video = s.video := by
  unfold fetchRead; split <;> rfl
@[simp] theorem fetchRead_keys (a : Nat) (s : State) : (fetchRead a s).2.keys = s.keys := by
  unfold fetchRead; split <;> rfl
@[simp] theorem fetchRead_opcode (a : Nat) (s : State) : (fetchRead a s).2.opcode = s.opcode := by
  unfold fetchRead; split <;> rfl
@[simp] theorem fetchRead_cfg (a : Nat) (s : State) : (fetchRead a s).2.cfg = s.cfg := by
  unfold fetchRead; split <;> rfl
@[simp] theorem fetchRead_randIn (a : Nat) (s : State) : (fetchRead a s).2.randIn = s.randIn := by
  unfold fetchRead; split <;> rfl
@[simp] theorem fetchRead_draws (a : Nat) (s : State) : (fetchRead a s).2.draws = s.draws := by
  unfold fetchRead; split <;> rfl

/-! ### Fields that keyRead leaves alone -/

@[simp] theorem keyRead_V (k : Byte) (s : State) : (keyRead k s).2.V = s.V := by
  unfold keyRead; split <;> rfl
@[simp] theorem keyRead_I (k : Byte) (s : State) : (keyRead k s).2.I = s.I := by
  unfold keyRead; split <;> rfl
@[simp] theorem keyRead_pc (k : Byte) (s : State) : (keyRead k s).2.pc = s.pc := by
  unfold keyRead; split <;> rfl
@[simp] theorem keyRead_stack (k : Byte) (s : State) : (keyRead k s).2.stack = s.stack := by
  unfold keyRead; split <;> rfl
@[simp] theorem keyRead_sp (k : Byte) (s : State) : (keyRead k s).2.sp = s.sp := by
  unfold keyRead; split <;> rfl
@[simp] theorem keyRead_DT (k : Byte) (s : State) : (keyRead k s).2.DT = s.DT := by
  unfold keyRead; split <;> rfl
@[simp] theorem keyRead_ST (k : Byte) (s : State) : (keyRead k s).2.ST = s.ST := by
  unfold keyRead; split <;> rfl
@[simp] theorem keyRead_mem (k : Byte) (s : State) : (keyRead k s).2.mem = s.mem := by
  unfold keyRead; split <;> rfl
@[simp] theorem keyRead_video (k : Byte) (s : State) : (keyRead k s).2.video = s.video := by
  unfold keyRead; split <;> rfl
@[simp] theorem keyRead_keys (k : Byte) (s : State) : (keyRead k s).2.keys = s.keys := by
  unfold keyRead; split <;> rfl
@[simp] theorem keyRead_opcode (k : Byte) (s : State) : (keyRead k s).2.opcode = s.opcode := by
  unfold keyRead; split <;> rfl
@[simp] theorem keyRead_cfg (k : Byte) (s : State) : (keyRead k s).2.cfg = s.cfg := by
  unfold keyRead; split <;> rfl
@[simp] theorem keyRead_randIn (k : Byte) (s : State) : (keyRead k s).2.randIn = s.randIn := by
  unfold keyRead; split <;> rfl
@[simp] theorem keyRead_draws (k : Byte) (s : State) : (keyRead k s).2.draws = s.draws := by
  unfold keyRead; split <;> rfl

/-! ### Fields that writeBytes leaves alone -/

@[simp] theorem writeBytes_V (a : Nat) (bs : List Byte) (s : State) : (writeBytes a bs s).V = s.V := by
  induction bs generalizing a s with
  | nil => rfl
  | cons b bs ih => simp [writeBytes, ih]
@[simp] theorem writeBytes_I (a : Nat) (bs : List Byte) (s : State) : (writeBytes a bs s).I = s.I := by
  induction bs generalizing a s with
  | nil => rfl
  | cons b bs ih => simp [writeBytes, ih]
@[simp] theorem writeBytes_pc (a : Nat) (bs : List Byte) (s : State) : (writeBytes a bs s).pc = s.pc := by
  induction bs generalizing a s with
  | nil => rfl
  | cons b bs ih => simp [writeBytes, ih]
@[simp] theorem writeBytes_stack (a : Nat) (bs : List Byte) (s : State) : (writeBytes a bs s).stack = s.stack := by
  induction bs generalizing a s with
  | nil => rfl
  | cons b bs ih => simp [writeBytes, ih]
@[simp] theorem writeBytes_sp (a : Nat) (bs : List Byte) (s : State) : (writeBytes a bs s).sp = s.sp := by
  induction bs generalizing a s with
  | nil => rfl
  | cons b bs ih => simp [writeBytes, ih]
@[simp] theorem writeBytes_DT (a : Nat) (bs : List Byte) (s : State) : (writeBytes a bs s).DT = s.DT := by
  induction bs generalizing a s with
  | nil => rfl
  | cons b bs ih => simp [writeBytes, ih]
@[simp] theorem writeBytes_ST (a : Nat) (bs : List Byte) (s : State) : (writeBytes a bs s).ST = s.ST := by
  induction bs generalizing a s with
  | nil => rfl
  | cons b bs ih => simp [writeBytes, ih]
@[simp] theorem writeBytes_video (a : Nat) (bs : List Byte) (s : State) : (writeBytes a bs s).video = s.video := by
  induction bs generalizing a s with
  | nil => rfl
  | cons b bs ih => simp [writeBytes, ih]
@[simp] theorem writeBytes_keys (a : Nat) (bs : List Byte) (s : State) : (writeBytes a bs s).keys = s.keys := by
  induction bs generalizing a s with
  | nil => rfl
  | cons b bs ih => simp [writeBytes, ih]
@[simp] theorem writeBytes_opcode (a : Nat) (bs : List Byte) (s : State) : (writeBytes a bs s).opcode = s.opcode := by
  induction bs generalizing a s with
  | nil => rfl
  | cons b bs ih => simp [writeBytes, ih]
@[simp] theorem writeBytes_cfg (a : Nat) (bs : List Byte) (s : State) : (writeBytes a bs s).cfg = s.cfg := by
  induction bs generalizing a s with
  | nil => rfl
  | cons b bs ih => simp [writeBytes, ih]
@[simp] theorem writeBytes_randIn (a : Nat) (bs : List Byte) (s : State) : (writeBytes a bs s).randIn = s.randIn := by
  induction bs generalizing a s with
  | nil => rfl
  | cons b bs ih => simp [writeBytes, ih]
@[simp] theorem writeBytes_draws (a : Nat) (bs : List Byte) (s : State) : (writeBytes a bs s).draws = s.draws := by
  induction bs generalizing a s with
  | nil => rfl
  | cons b bs ih => simp [writeBytes, ih]

/-! ### Fields that storeRegs leaves alone -/

@[simp] theorem storeRegs_V (base : Nat) (rs : List Reg) (s : State) : (storeRegs base rs s).V = s.V := by
  unfold storeRegs
  induction rs generalizing s with
  | nil => rfl
  | cons r rs ih => simp [List.foldl_cons, ih]
@[simp] theorem storeRegs_I (base : Nat) (rs : List Reg) (s : State) : (storeRegs base rs s).I = s.I := by
  unfold storeRegs
  induction rs generalizing s with
  | nil => rfl
  | cons r rs ih => simp [List.foldl_cons, ih]
@[simp] theorem storeRegs_pc (base : Nat) (rs : List Reg) (s : State) : (storeRegs base rs s).pc = s.pc := by
  unfold storeRegs
  induction rs generalizing s with
  | nil => rfl
  | cons r rs ih => simp [List.foldl_cons, ih]
@[simp] theorem storeRegs_stack (base : Nat) (rs : List Reg) (s : State) : (storeRegs base rs s).stack = s.stack := by
  unfold storeRegs
  induction rs generalizing s with
  | nil => rfl
  | cons r rs ih => simp [List.foldl_cons, ih]
@[simp] theorem storeRegs_sp (base : Nat) (rs : List Reg) (s : State) : (storeRegs base rs s).sp = s.sp := by
  unfold storeRegs
  induction rs generalizing s with
  | nil => rfl
  | cons r rs ih => simp [List.foldl_cons, ih]
@[simp] theorem storeRegs_DT (base : Nat) (rs : List Reg) (s : State) : (storeRegs base rs s).DT = s.DT := by
  unfold storeRegs
  induction rs generalizing s with
  | nil => rfl
  | cons r rs ih => simp [List.foldl_cons, ih]
@[simp] theorem storeRegs_ST (base : Nat) (rs : List Reg) (s : State) : (storeRegs base rs s).ST = s.ST := by
  unfold storeRegs
  induction rs generalizing s with
  | nil => rfl
  | cons r rs ih => simp [List.foldl_cons, ih]
@[simp] theorem storeRegs_video (base : Nat) (rs : List Reg) (s : State) : (storeRegs base rs s).video = s.video := by
  unfold storeRegs
  induction rs generalizing s with
  | nil => rfl
  | cons r rs ih => simp [List.foldl_cons, ih]
@[simp] theorem storeRegs_keys (base : Nat) (rs : List Reg) (s : State) : (storeRegs base rs s).keys = s.keys := by
  unfold storeRegs
  induction rs generalizing s with
  | nil => rfl
  | cons r rs ih => simp [List.foldl_cons, ih]
@[simp] theorem storeRegs_opcode (base : Nat) (rs : List Reg) (s : State) : (storeRegs base rs s).opcode = s.opcode := by
  unfold storeRegs
  induction rs generalizing s with
  | nil => rfl
  | cons r rs ih => simp [List.foldl_cons, ih]
@[simp] theorem storeRegs_cfg (base : Nat) (rs : List Reg) (s : State) : (storeRegs base rs s).cfg = s.cfg := by
  unfold storeRegs
  induction rs generalizing s with
  | nil => rfl
  | cons r rs ih => simp [List.foldl_cons, ih]
@[simp] theorem storeRegs_randIn (base : Nat) (rs : List Reg) (s : State) : (storeRegs base rs s).randIn = s.randIn := by
  unfold storeRegs
  induction rs generalizing s with
  | nil => rfl
  | cons r rs ih => simp [List.foldl_cons, ih]
@[simp] theorem storeRegs_draws (base : Nat) (rs : List Reg) (s : State) : (storeRegs base rs s).draws = s.draws := by
  unfold storeRegs
  induction rs generalizing s with
  | nil => rfl
  | cons r rs ih => simp [List.foldl_cons, ih]

/-! ### Fields that loadRegs leaves alone -/

@[simp] theorem loadRegs_I (base : Nat) (rs : List Reg) (s : State) : (loadRegs base rs s).I = s.I := by
  unfold loadRegs
  induction rs generalizing s with
  | nil => rfl
  | cons r rs ih => simp [List.foldl_cons, ih]
@[simp] theorem loadRegs_pc (base : Nat) (rs : List Reg) (s : State) : (loadRegs base rs s).pc = s.pc := by
  unfold loadRegs
  induction rs generalizing s with
  | nil => rfl
  | cons r rs ih => simp [List.foldl_cons, ih]
@[simp] theorem loadRegs_stack (base : Nat) (rs : List Reg) (s : State) : (loadRegs base rs s).stack = s.stack := by
  unfold loadRegs
  induction rs generalizing s with
  | nil => rfl
  | cons r rs ih => simp [List.foldl_cons, ih]
@[simp] theorem loadRegs_sp (base : Nat) (rs : List Reg) (s : State) : (loadRegs base rs s).sp = s.sp := by
  unfold loadRegs
  induction rs generalizing s with
  | nil => rfl
  | cons r rs ih => simp [List.foldl_cons, ih]
@[simp] theorem loadRegs_DT (base : Nat) (rs : List Reg) (s : State) : (loadRegs base rs s).DT = s.DT := by
  unfold loadRegs
  induction rs generalizing s with
  | nil => rfl
  | cons r rs ih => simp [List.foldl_cons, ih]
@[simp] theorem loadRegs_ST (base : Nat) (rs : List Reg) (s : State) : (loadRegs base rs s).ST = s.ST := by
  unfold loadRegs
  induction rs generalizing s with
  | nil => rfl
  | cons r rs ih => simp [List.foldl_cons, ih]
@[simp] theorem loadRegs_mem (base : Nat) (rs : List Reg) (s : State) : (loadRegs base rs s).mem = s.mem := by
  unfold loadRegs
  induction rs generalizing s with
  | nil => rfl
  | cons r rs ih => simp [List.foldl_cons, ih]
@[simp] theorem loadRegs_video (base : Nat) (rs : List Reg) (s : State) : (loadRegs base rs s).video = s.video := by
  unfold loadRegs
  induction rs generalizing s with
  | nil => rfl
  | cons r rs ih => simp [List.foldl_cons, ih]
@[simp] theorem loadRegs_keys (base : Nat) (rs : List Reg) (s : State) : (loadRegs base rs s).keys = s.keys := by
  unfold loadRegs
  induction rs generalizing s with
  | nil => rfl
  | cons r rs ih => simp [List.foldl_cons, ih]
@[simp] theorem loadRegs_opcode (base : Nat) (rs : List Reg) (s : State) : (loadRegs base rs s).opcode = s.opcode := by
  unfold loadRegs
  induction rs generalizing s with
  | nil => rfl
  | cons r rs ih => simp [List.foldl_cons, ih]
@[simp] theorem loadRegs_cfg (base : Nat) (rs : List Reg) (s : State) : (loadRegs base rs s).cfg = s.cfg := by
  unfold loadRegs
  induction rs generalizing s with
  | nil => rfl
  | cons r rs ih => simp [List.foldl_cons, ih]
@[simp] theorem loadRegs_randIn (base : Nat) (rs : List Reg) (s : State) : (loadRegs base rs s).randIn = s.randIn := by
  unfold loadRegs
  induction rs generalizing s with
  | nil => rfl
  | cons r rs ih => simp [List.foldl_cons, ih]
@[simp] theorem loadRegs_draws (base : Nat) (rs : List Reg) (s : State) : (loadRegs base rs s).draws = s.draws := by
  unfold loadRegs
  induction rs generalizing s with
  | nil => rfl
  | cons r rs ih => simp [List.foldl_cons, ih]

/-! ### Drawing -/

@[simp] theorem drawColumn_V (x0 py : Nat) (row : Byte) (d : State × Bool) (c : Nat) :
    (drawColumn x0 py row d c).1.V = d.1.V := by
  unfold drawColumn; split
  · split <;> rfl
  · rfl
@[simp] theorem drawColumn_I (x0 py : Nat) (row : Byte) (d : State × Bool) (c : Nat) :
    (drawColumn x0 py row d c).1.I = d.1.I := by
  unfold drawColumn; split
  · split <;> rfl
  · rfl
@[simp] theorem drawColumn_pc (x0 py : Nat) (row : Byte) (d : State × Bool) (c : Nat) :
    (drawColumn x0 py row d c).1.pc = d.1.pc := by
  unfold drawColumn; split
  · split <;> rfl
  · rfl
@[simp] theorem drawColumn_stack (x0 py : Nat) (row : Byte) (d : State × Bool) (c : Nat) :
    (drawColumn x0 py row d c).1.stack = d.1.stack := by
  unfold drawColumn; split
  · split <;> rfl
  · rfl
@[simp] theorem drawColumn_sp (x0 py : Nat) (row : Byte) (d : State × Bool) (c : Nat) :
    (drawColumn x0 py row d c).1.sp = d.1.sp := by
  unfold drawColumn; split
  · split <;> rfl
  · rfl
@[simp] theorem drawColumn_DT (x0 py : Nat) (row : Byte) (d : State × Bool) (c : Nat) :
    (drawColumn x0 py row d c).1.DT = d.1.DT := by
  unfold drawColumn; split
  · split <;> rfl
  · rfl
@[simp] theorem drawColumn_ST (x0 py : Nat) (row : Byte) (d : State × Bool) (c : Nat) :
    (drawColumn x0 py row d c).1.ST = d.1.ST := by
  unfold drawColumn; split
  · split <;> rfl
  · rfl
@[simp] theorem drawColumn_mem (x0 py : Nat) (row : Byte) (d : State × Bool) (c : Nat) :
    (drawColumn x0 py row d c).1.mem = d.1.mem := by
  unfold drawColumn; split
  · split <;> rfl
  · rfl
@[simp] theorem drawColumn_keys (x0 py : Nat) (row : Byte) (d : State × Bool) (c : Nat) :
    (drawColumn x0 py row d c).1.keys = d.1.keys := by
  unfold drawColumn; split
  · split <;> rfl
  · rfl
@[simp] theorem drawColumn_opcode (x0 py : Nat) (row : Byte) (d : State × Bool) (c : Nat) :
    (drawColumn x0 py row d c).1.opcode = d.1.opcode := by
  unfold drawColumn; split
  · split <;> rfl
  · rfl
@[simp] theorem drawColumn_fault (x0 py : Nat) (row : Byte) (d : State × Bool) (c : Nat) :
    (drawColumn x0 py row d c).1.fault = d.1.fault := by
  unfold drawColumn; split
  · split <;> rfl
  · rfl
@[simp] theorem drawColumn_cfg (x0 py : Nat) (row : Byte) (d : State × Bool) (c : Nat) :
    (drawColumn x0 py row d c).1.cfg = d.1.cfg := by
  unfold drawColumn; split
  · split <;> rfl
  · rfl
@[simp] theorem drawColumn_randIn (x0 py : Nat) (row : Byte) (d : State × Bool) (c : Nat) :
    (drawColumn x0 py row d c).1.randIn = d.1.randIn := by
  unfold drawColumn; split
  · split <;> rfl
  · rfl
@[simp] theorem drawColumn_draws (x0 py : Nat) (row : Byte) (d : State × Bool) (c : Nat) :
    (drawColumn x0 py row d c).1.draws = d.1.draws := by
  unfold drawColumn; split
  · split <;> rfl
  · rfl

/-- What every column keeps, the eight columns of a row keep. -/
theorem foldl_drawColumn_keeps {α : Type} (get : State → α) (x0 py : Nat) (row : Byte)
    (h : ∀ d c, get (drawColumn x0 py row d c).1 = get d.1) (cs : List Nat) (d : State × Bool) :
    get (cs.foldl (drawColumn x0 py row) d).1 = get d.1 := by
  induction cs generalizing d with
  | nil => rfl
  | cons c cs ih => rw [List.foldl_cons, ih, h]

/-- What every row keeps, the sprite keeps. -/
theorem drawSprite_keeps {α : Type} (get : State → α) (base x0 y0 n : Nat)
    (h : ∀ d r, get (drawRow base x0 y0 d r).1 = get d.1) (s : State) :
    get (drawSprite base x0 y0 n s).1 = get s := by
  have key : ∀ (rs : List Nat) (d : State × Bool), get (rs.foldl (drawRow base x0 y0) d).1 = get d.1 := by
    intro rs
    induction rs with
    | nil => intro d; rfl
    | cons r rs ih => intro d; rw [List.foldl_cons, ih, h]
  exact key (List.range n) (s, false)

@[simp] theorem drawRow_V (base x0 y0 : Nat) (d : State × Bool) (r : Nat) :
    (drawRow base x0 y0 d r).1.V = d.1.V := by
  rw [drawRow, foldl_drawColumn_keeps (fun s => s.V) _ _ _ (fun d c => drawColumn_V _ _ _ d c), memRead_V]
@[simp] theorem drawSprite_V (base x0 y0 n : Nat) (s : State) : (drawSprite base x0 y0 n s).1.V = s.V :=
  drawSprite_keeps (fun s => s.V) base x0 y0 n (fun d r => drawRow_V base x0 y0 d r) s
@[simp] theorem drawRow_I (base x0 y0 : Nat) (d : State × Bool) (r : Nat) :
    (drawRow base x0 y0 d r).1.I = d.1.I := by
  rw [drawRow, foldl_drawColumn_keeps (fun s => s.I) _ _ _ (fun d c => drawColumn_I _ _ _ d c), memRead_I]
@[simp] theorem drawSprite_I (base x0 y0 n : Nat) (s : State) : (drawSprite base x0 y0 n s).1.I = s.I :=
  drawSprite_keeps (fun s => s.I) base x0 y0 n (fun d r => drawRow_I base x0 y0 d r) s
@[simp] theorem drawRow_pc (base x0 y0 : Nat) (d : State × Bool) (r : Nat) :
    (drawRow base x0 y0 d r).1.pc = d.1.pc := by
  rw [drawRow, foldl_drawColumn_keeps (fun s => s.pc) _ _ _ (fun d c => drawColumn_pc _ _ _ d c), memRead_pc]
@[simp] theorem drawSprite_pc (base x0 y0 n : Nat) (s : State) : (drawSprite base x0 y0 n s).1.pc = s.pc :=
  drawSprite_keeps (fun s => s.pc) base x0 y0 n (fun d r => drawRow_pc base x0 y0 d r) s
@[simp] theorem drawRow_stack (base x0 y0 : Nat) (d : State × Bool) (r : Nat) :
    (drawRow base x0 y0 d r).1.stack = d.1.stack := by
  rw [drawRow, foldl_drawColumn_keeps (fun s => s.stack) _ _ _ (fun d c => drawColumn_stack _ _ _ d c), memRead_stack]
@[simp] theorem drawSprite_stack (base x0 y0 n : Nat) (s : State) : (drawSprite base x0 y0 n s).1.stack = s.stack :=
  drawSprite_keeps (fun s => s.stack) base x0 y0 n (fun d r => drawRow_stack base x0 y0 d r) s
@[simp] theorem drawRow_sp (base x0 y0 : Nat) (d : State × Bool) (r : Nat) :
    (drawRow base x0 y0 d r).1.sp = d.1.sp := by
  rw [drawRow, foldl_drawColumn_keeps (fun s => s.sp) _ _ _ (fun d c => drawColumn_sp _ _ _ d c), memRead_sp]
@[simp] theorem drawSprite_sp (base x0 y0 n : Nat) (s : State) : (drawSprite base x0 y0 n s).1.sp = s.sp :=
  drawSprite_keeps (fun s => s.sp) base x0 y0 n (fun d r => drawRow_sp base x0 y0 d r) s
@[simp] theorem drawRow_DT (base x0 y0 : Nat) (d : State × Bool) (r : Nat) :
    (drawRow base x0 y0 d r).1.DT = d.1.DT := by
  rw [drawRow, foldl_drawColumn_keeps (fun s => s.DT) _ _ _ (fun d c => drawColumn_DT _ _ _ d c), memRead_DT]
@[simp] theorem drawSprite_DT (base x0 y0 n : Nat) (s : State) : (drawSprite base x0 y0 n s).1.DT = s.DT :=
  drawSprite_keeps (fun s => s.DT) base x0 y0 n (fun d r => drawRow_DT base x0 y0 d r) s
@[simp] theorem drawRow_ST (base x0 y0 : Nat) (d : State × Bool) (r : Nat) :
    (drawRow base x0 y0 d r).1.ST = d.1.ST := by
  rw [drawRow, foldl_drawColumn_keeps (fun s => s.ST) _ _ _ (fun d c => drawColumn_ST _ _ _ d c), memRead_ST]
@[simp] theorem drawSprite_ST (base x0 y0 n : Nat) (s : State) : (drawSprite base x0 y0 n s).1.ST = s.ST :=
  drawSprite_keeps (fun s => s.ST) base x0 y0 n (fun d r => drawRow_ST base x0 y0 d r) s
@[simp] theorem drawRow_mem (base x0 y0 : Nat) (d : State × Bool) (r : Nat) :
    (drawRow base x0 y0 d r).1.mem = d.1.mem := by
  rw [drawRow, foldl_drawColumn_keeps (fun s => s.mem) _ _ _ (fun d c => drawColumn_mem _ _ _ d c), memRead_mem]
@[simp] theorem drawSprite_mem (base x0 y0 n : Nat) (s : State) : (drawSprite base x0 y0 n s).1.mem = s.mem :=
  drawSprite_keeps (fun s => s.mem) base x0 y0 n (fun d r => drawRow_mem base x0 y0 d r) s
@[simp] theorem drawRow_keys (base x0 y0 : Nat) (d : State × Bool) (r : Nat) :
    (drawRow base x0 y0 d r).1.keys = d.1.keys := by
  rw [drawRow, foldl_drawColumn_keeps (fun s => s.keys) _ _ _ (fun d c => drawColumn_keys _ _ _ d c), memRead_keys]
@[simp] theorem drawSprite_keys (base x0 y0 n : Nat) (s : State) : (drawSprite base x0 y0 n s).1.keys = s.keys :=
  drawSprite_keeps (fun s => s.keys) base x0 y0 n (fun d r => drawRow_keys base x0 y0 d r) s
@[simp] theorem drawRow_opcode (base x0 y0 : Nat) (d : State × Bool) (r : Nat) :
    (drawRow base x0 y0 d r).1.opcode = d.1.opcode := by
  rw [drawRow, foldl_drawColumn_keeps (fun s => s.opcode) _ _ _ (fun d c => drawColumn_opcode _ _ _ d c), memRead_opcode]
@[simp] theorem drawSprite_opcode (base x0 y0 n : Nat) (s : State) : (drawSprite base x0 y0 n s).1.opcode = s.opcode :=
  drawSprite_keeps (fun s => s.opcode) base x0 y0 n (fun d r => drawRow_opcode base x0 y0 d r) s
@[simp] theorem drawRow_cfg (base x0 y0 : Nat) (d : State × Bool) (r : Nat) :
    (drawRow base x0 y0 d r).1.cfg = d.1.cfg := by
  rw [drawRow, foldl_drawColumn_keeps (fun s => s.cfg) _ _ _ (fun d c => drawColumn_cfg _ _ _ d c), memRead_cfg]
@[simp] theorem drawSprite_cfg (base x0 y0 n : Nat) (s : State) : (drawSprite base x0 y0 n s).1.cfg = s.cfg :=
  drawSprite_keeps (fun s => s.cfg) base x0 y0 n (fun d r => drawRow_cfg base x0 y0 d r) s
@[simp] theorem drawRow_randIn (base x0 y0 : Nat) (d : State × Bool) (r : Nat) :
    (drawRow base x0 y0 d r).1.randIn = d.1.randIn := by
  rw [drawRow, foldl_drawColumn_keeps (fun s => s.randIn) _ _ _ (fun d c => drawColumn_randIn _ _ _ d c), memRead_randIn]
@[simp] theorem drawSprite_randIn (base x0 y0 n : Nat) (s : State) : (drawSprite base x0 y0 n s).1.randIn = s.randIn :=
  drawSprite_keeps (fun s => s.randIn) base x0 y0 n (fun d r => drawRow_randIn base x0 y0 d r) s
@[simp] theorem drawRow_draws (base x0 y0 : Nat) (d : State × Bool) (r : Nat) :
    (drawRow base x0 y0 d r).1.draws = d.1.draws := by
  rw [drawRow, foldl_drawColumn_keeps (fun s => s.draws) _ _ _ (fun d c => drawColumn_draws _ _ _ d c), memRead_draws]
@[simp] theorem drawSprite_draws (base x0 y0 n : Nat) (s : State) : (drawSprite base x0 y0 n s).1.draws = s.draws :=
  drawSprite_keeps (fun s => s.draws) base x0 y0 n (fun d r => drawRow_draws base x0 y0 d r) s

/-! ### The canonical form of memory is kept -/

theorem wf_memWrite (a : Nat) (v : Byte) (s : State) (h : Memory.wf s.cfg s.mem = true) :
    Memory.wf (memWrite a v s).cfg (memWrite a v s).mem = true := by
  by_cases ha : a ≤ 0xFFF
  · rw [memWrite_in ha]; exact wf_write s.cfg s.mem a v h (by omega)
  · rw [memWrite_out ha]; exact h

theorem wf_writeBytes (a : Nat) (bs : List Byte) (s : State) (h : Memory.wf s.cfg s.mem = true) :
    Memory.wf (writeBytes a bs s).cfg (writeBytes a bs s).mem = true := by
  induction bs generalizing a s with
  | nil => exact h
  | cons b bs ih => exact ih (a + 1) _ (wf_memWrite a b s h)

theorem wf_storeRegs (base : Nat) (rs : List Reg) (s : State) (h : Memory.wf s.cfg s.mem = true) :
    Memory.wf (storeRegs base rs s).cfg (storeRegs base rs s).mem = true := by
  unfold storeRegs
  induction rs generalizing s with
  | nil => exact h
  | cons r rs ih => exact ih _ (wf_memWrite (base + r.val) (s.reg r) s h)

/-! ### The return stack (41_control_flow.md R140, R142) -/

theorem push?_room {s : State} (w : Word) (h : s.sp.val < 16) :
    s.push? w = some { s with stack := s.stack.set s.sp.val w, sp := ⟨s.sp.val + 1, by omega⟩ } := by
  simp [State.push?, h]

theorem push?_full {s : State} (w : Word) (h : s.sp.val = 16) : s.push? w = none := by simp [State.push?, h]

theorem pop?_some {s : State} (h : 0 < s.sp.val) :
    s.pop? = some (s.stack[s.sp.val - 1]'(by omega), { s with sp := ⟨s.sp.val - 1, by omega⟩ }) := by
  simp [State.pop?, h]

theorem pop?_empty {s : State} (h : s.sp.val = 0) : s.pop? = none := by simp [State.pop?, h]

/-! ### The key FX0A takes (44_keys_timers.md R224) -/

/-- `none` exactly when every key is up. -/
theorem firstKeyDown?_none (s : State) : s.firstKeyDown? = none ↔ ∀ k, s.key k = false := by
  simp [State.firstKeyDown?]

/-- The key found is down. -/
theorem firstKeyDown?_down {s : State} {k : Fin 16} (h : s.firstKeyDown? = some k) : s.key k = true := by
  simpa using List.find?_some h

end Sys2Proof.Machine
end

