-- ==== Sys2Proof/Laws/PerInstr.lean ====
section
/-! SUPPORT. Per instruction: the canonical word of every instruction is one its own row of the opcode table selects
(30_encoding.md R93). -/

namespace Sys2Proof.Laws.EncodedRow

/-- The canonical word meets the mask and match of the instruction's row. -/
def Statement (i : Instr) : Prop := i.row.selects (encodeWord i) = true

/-- A format-NNN word lies in its group. -/
theorem packNnn_group (g : BitVec 4) (nnn : Addr) : (packNnn g nnn).toNat / 4096 * 4096 = g.toNat * 4096 := by
  have := nnn.isLt
  rw [packNnn_toNat]; omega

/-- A format-XNN word lies in its group. -/
theorem packXNn_group (g : BitVec 4) (x : Reg) (nn : Byte) : (packXNn g x nn).toNat / 4096 * 4096 = g.toNat * 4096 := by
  have := nn.isLt
  have := x.isLt
  rw [packXNn_toNat]; omega

/-- A format-XNN word ends in its byte. -/
theorem packXNn_low (g : BitVec 4) (x : Reg) (nn : Byte) : (packXNn g x nn).toNat % 256 = nn.toNat := by
  have := nn.isLt
  rw [packXNn_toNat]; omega

/-- A format-XYN word lies in its group. -/
theorem packXYN_group (g : BitVec 4) (x y : Reg) (n : BitVec 4) :
    (packXYN g x y n).toNat / 4096 * 4096 = g.toNat * 4096 := by
  have := x.isLt
  have := y.isLt
  have := n.isLt
  rw [packXYN_toNat]; omega

/-- A format-XYN word ends in its nibble. -/
theorem packXYN_low (g : BitVec 4) (x y : Reg) (n : BitVec 4) : (packXYN g x y n).toNat % 16 = n.toNat := by
  have := n.isLt
  rw [packXYN_toNat]; omega

theorem cls : Statement (.cls) := by unfold Statement; decide

theorem ret : Statement (.ret) := by unfold Statement; decide

theorem jp (nnn : Addr) : Statement (.jp nnn) := (selects_F000 _ _).2 (packNnn_group _ nnn)

theorem call (nnn : Addr) : Statement (.call nnn) := (selects_F000 _ _).2 (packNnn_group _ nnn)

theorem seVxNn (x : Reg) (nn : Byte) : Statement (.seVxNn x nn) := (selects_F000 _ _).2 (packXNn_group _ x nn)

theorem sneVxNn (x : Reg) (nn : Byte) : Statement (.sneVxNn x nn) := (selects_F000 _ _).2 (packXNn_group _ x nn)

theorem seVxVy (x y : Reg) : Statement (.seVxVy x y) := (selects_F000 _ _).2 (packXYN_group _ x y _)

theorem ldVxNn (x : Reg) (nn : Byte) : Statement (.ldVxNn x nn) := (selects_F000 _ _).2 (packXNn_group _ x nn)

theorem addVxNn (x : Reg) (nn : Byte) : Statement (.addVxNn x nn) := (selects_F000 _ _).2 (packXNn_group _ x nn)

theorem ldVxVy (x y : Reg) : Statement (.ldVxVy x y) :=
  (selects_F00F _ 0x8000#16 0x0000#16 (by decide) (by decide)).2 ⟨packXYN_group _ x y _, packXYN_low _ x y _⟩

theorem orVxVy (x y : Reg) : Statement (.orVxVy x y) :=
  (selects_F00F _ 0x8000#16 0x0001#16 (by decide) (by decide)).2 ⟨packXYN_group _ x y _, packXYN_low _ x y _⟩

theorem andVxVy (x y : Reg) : Statement (.andVxVy x y) :=
  (selects_F00F _ 0x8000#16 0x0002#16 (by decide) (by decide)).2 ⟨packXYN_group _ x y _, packXYN_low _ x y _⟩

theorem xorVxVy (x y : Reg) : Statement (.xorVxVy x y) :=
  (selects_F00F _ 0x8000#16 0x0003#16 (by decide) (by decide)).2 ⟨packXYN_group _ x y _, packXYN_low _ x y _⟩

theorem addVxVy (x y : Reg) : Statement (.addVxVy x y) :=
  (selects_F00F _ 0x8000#16 0x0004#16 (by decide) (by decide)).2 ⟨packXYN_group _ x y _, packXYN_low _ x y _⟩

theorem subVxVy (x y : Reg) : Statement (.subVxVy x y) :=
  (selects_F00F _ 0x8000#16 0x0005#16 (by decide) (by decide)).2 ⟨packXYN_group _ x y _, packXYN_low _ x y _⟩

theorem shrVxVy (x y : Reg) : Statement (.shrVxVy x y) :=
  (selects_F00F _ 0x8000#16 0x0006#16 (by decide) (by decide)).2 ⟨packXYN_group _ x y _, packXYN_low _ x y _⟩

theorem subnVxVy (x y : Reg) : Statement (.subnVxVy x y) :=
  (selects_F00F _ 0x8000#16 0x0007#16 (by decide) (by decide)).2 ⟨packXYN_group _ x y _, packXYN_low _ x y _⟩

theorem shlVxVy (x y : Reg) : Statement (.shlVxVy x y) :=
  (selects_F00F _ 0x8000#16 0x000E#16 (by decide) (by decide)).2 ⟨packXYN_group _ x y _, packXYN_low _ x y _⟩

theorem sneVxVy (x y : Reg) : Statement (.sneVxVy x y) := (selects_F000 _ _).2 (packXYN_group _ x y _)

theorem ldINnn (nnn : Addr) : Statement (.ldINnn nnn) := (selects_F000 _ _).2 (packNnn_group _ nnn)

theorem jpV0Nnn (nnn : Addr) : Statement (.jpV0Nnn nnn) := (selects_F000 _ _).2 (packNnn_group _ nnn)

theorem rndVxNn (x : Reg) (nn : Byte) : Statement (.rndVxNn x nn) := (selects_F000 _ _).2 (packXNn_group _ x nn)

theorem drw (x y : Reg) (n : Fin 16) : Statement (.drw x y n) := (selects_F000 _ _).2 (packXYN_group _ x y _)

theorem skp (x : Reg) : Statement (.skp x) :=
  (selects_F0FF _ 0xE000#16 0x009E#16 (by decide) (by decide)).2 ⟨packXNn_group _ x _, packXNn_low _ x _⟩

theorem sknp (x : Reg) : Statement (.sknp x) :=
  (selects_F0FF _ 0xE000#16 0x00A1#16 (by decide) (by decide)).2 ⟨packXNn_group _ x _, packXNn_low _ x _⟩

theorem ldVxDt (x : Reg) : Statement (.ldVxDt x) :=
  (selects_F0FF _ 0xF000#16 0x0007#16 (by decide) (by decide)).2 ⟨packXNn_group _ x _, packXNn_low _ x _⟩

theorem ldVxK (x : Reg) : Statement (.ldVxK x) :=
  (selects_F0FF _ 0xF000#16 0x000A#16 (by decide) (by decide)).2 ⟨packXNn_group _ x _, packXNn_low _ x _⟩

theorem ldDtVx (x : Reg) : Statement (.ldDtVx x) :=
  (selects_F0FF _ 0xF000#16 0x0015#16 (by decide) (by decide)).2 ⟨packXNn_group _ x _, packXNn_low _ x _⟩

theorem ldStVx (x : Reg) : Statement (.ldStVx x) :=
  (selects_F0FF _ 0xF000#16 0x0018#16 (by decide) (by decide)).2 ⟨packXNn_group _ x _, packXNn_low _ x _⟩

theorem addIVx (x : Reg) : Statement (.addIVx x) :=
  (selects_F0FF _ 0xF000#16 0x001E#16 (by decide) (by decide)).2 ⟨packXNn_group _ x _, packXNn_low _ x _⟩

theorem ldFVx (x : Reg) : Statement (.ldFVx x) :=
  (selects_F0FF _ 0xF000#16 0x0029#16 (by decide) (by decide)).2 ⟨packXNn_group _ x _, packXNn_low _ x _⟩

theorem ldBVx (x : Reg) : Statement (.ldBVx x) :=
  (selects_F0FF _ 0xF000#16 0x0033#16 (by decide) (by decide)).2 ⟨packXNn_group _ x _, packXNn_low _ x _⟩

theorem ldMemVx (x : Reg) : Statement (.ldMemVx x) :=
  (selects_F0FF _ 0xF000#16 0x0055#16 (by decide) (by decide)).2 ⟨packXNn_group _ x _, packXNn_low _ x _⟩

theorem ldVxMem (x : Reg) : Statement (.ldVxMem x) :=
  (selects_F0FF _ 0xF000#16 0x0065#16 (by decide) (by decide)).2 ⟨packXNn_group _ x _, packXNn_low _ x _⟩

theorem unassigned (w : Word) : Statement (.unassigned w) := by
  simp [Statement, Instr.row, OpcodeRow.selects, encodeWord]

end Sys2Proof.Laws.EncodedRow
end

