-- ==== Sys2Proof/Laws/Step.lean ====
section
/-! SUPPORT. The step as the execution of the fetched instruction, and what fetching and finishing a step leave alone. -/

namespace Sys2Proof.Machine

/-- A step whose instruction answers a next state answers that state with the timers ticked. -/
theorem step_of_exec {s t : State} (h : exec (fetchedInstr s) (fetchAdvance s) = .next t) :
    step s = .next (finishStep t) := by
  simp [step, h]

/-- The other way round: a step that answers a next state came from an execution that did. -/
theorem exec_of_step {s u : State} (h : step s = .next u) :
    ∃ t, exec (fetchedInstr s) (fetchAdvance s) = .next t ∧ u = finishStep t := by
  unfold step at h
  split at h
  next t ht => exact ⟨t, ht, by simpa using h.symm⟩
  all_goals simp at h

/-! ### What the fetch leaves alone -/

@[simp] theorem fetchAdvance_opcode (s : State) : (fetchAdvance s).opcode = fetchWord s := rfl
@[simp] theorem fetchAdvance_pc (s : State) : (fetchAdvance s).pc = s.pc + 2 := rfl
@[simp] theorem fetchAdvance_V (s : State) : (fetchAdvance s).V = s.V := by simp [fetchAdvance, fetchLo, fetchHi]
@[simp] theorem fetchAdvance_I (s : State) : (fetchAdvance s).I = s.I := by simp [fetchAdvance, fetchLo, fetchHi]
@[simp] theorem fetchAdvance_stack (s : State) : (fetchAdvance s).stack = s.stack := by simp [fetchAdvance, fetchLo, fetchHi]
@[simp] theorem fetchAdvance_sp (s : State) : (fetchAdvance s).sp = s.sp := by simp [fetchAdvance, fetchLo, fetchHi]
@[simp] theorem fetchAdvance_DT (s : State) : (fetchAdvance s).DT = s.DT := by simp [fetchAdvance, fetchLo, fetchHi]
@[simp] theorem fetchAdvance_ST (s : State) : (fetchAdvance s).ST = s.ST := by simp [fetchAdvance, fetchLo, fetchHi]
@[simp] theorem fetchAdvance_mem (s : State) : (fetchAdvance s).mem = s.mem := by simp [fetchAdvance, fetchLo, fetchHi]
@[simp] theorem fetchAdvance_video (s : State) : (fetchAdvance s).video = s.video := by simp [fetchAdvance, fetchLo, fetchHi]
@[simp] theorem fetchAdvance_keys (s : State) : (fetchAdvance s).keys = s.keys := by simp [fetchAdvance, fetchLo, fetchHi]
@[simp] theorem fetchAdvance_cfg (s : State) : (fetchAdvance s).cfg = s.cfg := by simp [fetchAdvance, fetchLo, fetchHi]
@[simp] theorem fetchAdvance_randIn (s : State) : (fetchAdvance s).randIn = s.randIn := by
  simp [fetchAdvance, fetchLo, fetchHi]
@[simp] theorem fetchAdvance_draws (s : State) : (fetchAdvance s).draws = s.draws := by
  simp [fetchAdvance, fetchLo, fetchHi]

/-- The fetched word and the state after the fetch, where both bytes lie in memory. -/
theorem fetch_in {s : State} (h : s.pc.toNat + 1 ≤ 0xFFF) :
    fetchWord s = wordOf (s.peek s.pc.toNat) (s.peek (s.pc.toNat + 1)) ∧
      fetchAdvance s = { s with opcode := fetchWord s, pc := s.pc + 2 } := by
  have h0 : s.pc.toNat ≤ 0xFFF := by omega
  constructor
  · simp [fetchWord, fetchHi, fetchLo, fetchRead_in h0, fetchRead_in h]
  · simp [fetchAdvance, fetchHi, fetchLo, fetchRead_in h0, fetchRead_in h]

/-! ### The timers -/

theorem tick_toNat (b : Byte) : (tick b).toNat = b.toNat - 1 := by
  unfold tick
  split
  next h =>
    have := b.isLt
    rw [BitVec.toNat_sub]
    simp
    omega
  next h => omega

theorem finishStep_DT (s : State) : (finishStep s).DT = tick s.DT := rfl
theorem finishStep_ST (s : State) : (finishStep s).ST = tick s.ST := rfl

end Sys2Proof.Machine
end

