-- ==== Sys2Proof/Tests/Slice0.lean ====
section
/-! SUPPORT. Tests: the well-formedness smoke, a written-out word for every constructor, one-step vectors of 95_test_vectors.md
(V1 to V8, W1 to W7), and the witnesses of the statements' hypotheses. Expected values are those of spec/, never the model's. -/

namespace Sys2Proof.Tests

open Sys2Proof.Machine

/-! ## Builders -/

/-- The reset state with a word at 0x200: the convention of 95_test_vectors.md. -/
def start (w : Nat) : State := State.reset.withFetchWord 16 w

/-- The same under another configuration. -/
def startWith (cfg : Config) (w : Nat) : State := (State.construct cfg).withFetchWord 16 w

/-- One step answers a next state that passes the check. -/
def ends (s : State) (check : State → Bool) : Bool :=
  match step s with
  | .next t => check t
  | .fault _ => false
  | .refused _ => false

/-- The default configuration with SHIFT_SOURCE = VY. -/
def shiftVy : Config := { defaultConfig with shiftSource := .vy }

/-- The default configuration with DRAW_EDGE = WRAP. -/
def wrapping : Config := { defaultConfig with drawEdge := .wrap }

/-- The default configuration with FX0A_CLEARS_KEY = true. -/
def clearing : Config := { defaultConfig with fx0aClearsKey := true }

/-- The key latch with two keys down (95_test_vectors.md V7 rows 8 and 9). -/
def keys3and9 : Vector Bool 16 := ((Vector.replicate 16 false).set 3 true).set 9 true

/-- No key down. -/
def keysUp : Vector Bool 16 := Vector.replicate 16 false

/-! ## Well-formedness smoke: each ill-formed term is refused by the one check -/

theorem test_wf_refuses_a_cls_word : (Instr.unassigned 0x00E0).wf = false := by decide
theorem test_wf_refuses_an_alu_word : (Instr.unassigned 0x8120).wf = false := by decide
theorem test_wf_refuses_a_key_word : (Instr.unassigned 0xE19E).wf = false := by decide
theorem test_wf_refuses_a_group_f_word : (Instr.unassigned 0xF107).wf = false := by decide
theorem test_wf_refuses_a_jump_word : (Instr.unassigned 0x1234).wf = false := by decide

theorem test_wf_accepts_the_unassigned_words_of_v1 :
    (Instr.unassigned 0x0123).wf = true ∧ (Instr.unassigned 0x8AB8).wf = true ∧ (Instr.unassigned 0xE1A2).wf = true ∧
    (Instr.unassigned 0xF10B).wf = true ∧ (Instr.unassigned 0xFFFF).wf = true := by decide

/-! ## Decoding: a word of every constructor, written out from 30_encoding.md R81 and R93 -/

theorem test_decodes_group_0 :
    decodeWord 0b0000000011100000#16 = .cls ∧ decodeWord 0b0000000011101110#16 = .ret ∧
    decodeWord 0x0120 = .cls ∧ decodeWord 0x01FE = .ret := by decide

theorem test_decodes_jumps_and_calls :
    decodeWord 0b0001001000110100#16 = .jp 0x234 ∧ decodeWord 0b0010101111001101#16 = .call 0xBCD ∧
    decodeWord 0b1011111100000001#16 = .jpV0Nnn 0xF01 := by decide

theorem test_decodes_skips :
    decodeWord 0b0011001100010010#16 = .seVxNn 3 0x12 ∧ decodeWord 0b0100001100010010#16 = .sneVxNn 3 0x12 ∧
    decodeWord 0b0101000100100001#16 = .seVxVy 1 2 ∧ decodeWord 0b1001101010110111#16 = .sneVxVy 0xA 0xB := by decide

theorem test_decodes_immediates :
    decodeWord 0b0110101001111011#16 = .ldVxNn 0xA 0x7B ∧ decodeWord 0b0111111100000001#16 = .addVxNn 0xF 0x01 ∧
    decodeWord 0b1010000100100011#16 = .ldINnn 0x123 ∧ decodeWord 0b1100001111110000#16 = .rndVxNn 3 0xF0 := by decide

theorem test_decodes_alu_0_to_4 :
    decodeWord 0b1000000100100000#16 = .ldVxVy 1 2 ∧ decodeWord 0b1000000100100001#16 = .orVxVy 1 2 ∧
    decodeWord 0b1000000100100010#16 = .andVxVy 1 2 ∧ decodeWord 0b1000000100100011#16 = .xorVxVy 1 2 ∧
    decodeWord 0b1000000100100100#16 = .addVxVy 1 2 := by decide

theorem test_decodes_alu_5_to_e :
    decodeWord 0b1000000100100101#16 = .subVxVy 1 2 ∧ decodeWord 0b1000000100100110#16 = .shrVxVy 1 2 ∧
    decodeWord 0b1000000100100111#16 = .subnVxVy 1 2 ∧ decodeWord 0b1000000100101110#16 = .shlVxVy 1 2 := by decide

theorem test_decodes_display_and_keys :
    decodeWord 0b1101000000010010#16 = .drw 0 1 2 ∧ decodeWord 0b1110001010011110#16 = .skp 2 ∧
    decodeWord 0b1110001010100001#16 = .sknp 2 := by decide

theorem test_decodes_timers :
    decodeWord 0b1111001100000111#16 = .ldVxDt 3 ∧ decodeWord 0b1111010100001010#16 = .ldVxK 5 ∧
    decodeWord 0b1111000000010101#16 = .ldDtVx 0 ∧ decodeWord 0b1111010000011000#16 = .ldStVx 4 := by decide

theorem test_decodes_index_and_memory :
    decodeWord 0b1111000100011110#16 = .addIVx 1 ∧ decodeWord 0b1111000100101001#16 = .ldFVx 1 ∧
    decodeWord 0b1111010000110011#16 = .ldBVx 4 ∧ decodeWord 0b1111001101010101#16 = .ldMemVx 3 ∧
    decodeWord 0b1111111101100101#16 = .ldVxMem 0xF := by decide

theorem test_decodes_unassigned :
    decodeWord 0b0000000100100011#16 = .unassigned 0x0123 ∧ decodeWord 0b1000101010111111#16 = .unassigned 0x8ABF ∧
    decodeWord 0b1110000110100010#16 = .unassigned 0xE1A2 ∧ decodeWord 0b1111000100001011#16 = .unassigned 0xF10B := by decide

theorem test_table_word_is_laid_out_big_endian :
    decodeTableWord 16 0x1234 = some (.jp 0x234) ∧ decode [0x12, 0x34, 0x56] = .ok (.jp 0x234, [0x56]) ∧
    decode [0x12] = .error .truncated := by decide

/-! ## Fetch, timers, no-ops (V2, V7 rows 17 and 18) -/

theorem test_fetch_past_memory_reads_zero :
    ends (((State.reset.setPc 0xFFF).poke 0xFFF 0x12))
      (fun t => t.pc == 0x200 && t.fault == 0x04 && t.opcode == 0x1200) = true := by decide

theorem test_pc_wraps_at_2_to_16 :
    ends ((State.reset.setPc 0xFFFE)) (fun t => t.pc == 0x0000 && t.fault == 0x04 && t.opcode == 0x0000) = true := by decide

theorem test_unassigned_ticks_the_timers :
    ends (((start 0xF10B).setDT 0x05).setST 0x01) (fun t => t.pc == 0x202 && t.DT == 0x04 && t.ST == 0x00) = true := by decide

theorem test_timers_stop_at_zero : ends (start 0x0123) (fun t => t.pc == 0x202 && t.DT == 0 && t.ST == 0) = true := by decide

/-! ## Control flow (V4) -/

theorem test_call : ends (start 0x2300) (fun t => t.stack[0] == 0x202 && t.sp == 1 && t.pc == 0x300) = true := by decide

theorem test_call_overflow :
    ends { start 0x2300 with sp := 16 }
      (fun t => t.pc == 0x202 && t.sp == 16 && t.stack[15] == 0 && t.fault == 0x01) = true := by decide

theorem test_ret :
    ends { start 0x00EE with sp := 2, stack := ((Vector.replicate 16 0).set 0 0x400).set 1 0x500 }
      (fun t => t.pc == 0x500 && t.sp == 1 && t.stack[1] == 0x500) = true := by decide

theorem test_ret_underflow : ends (start 0x00EE) (fun t => t.pc == 0x202 && t.sp == 0 && t.fault == 0x02) = true := by decide

theorem test_jp_to_an_odd_address : ends (start 0x1201) (fun t => t.pc == 0x201) = true := by decide

theorem test_jp_v0_past_memory :
    ends ((start 0xBF01).setReg 0 0xFF) (fun t => t.pc == 0x1000 && t.fault == 0x00) = true := by decide

theorem test_se_byte :
    ends ((start 0x3312).setReg 3 0x12) (fun t => t.pc == 0x204) = true ∧
    ends ((start 0x3313).setReg 3 0x12) (fun t => t.pc == 0x202) = true := by decide

theorem test_sne_byte :
    ends ((start 0x4313).setReg 3 0x12) (fun t => t.pc == 0x204) = true ∧
    ends ((start 0x4312).setReg 3 0x12) (fun t => t.pc == 0x202) = true := by decide

theorem test_se_register :
    ends (((start 0x5120).setReg 1 7).setReg 2 7) (fun t => t.pc == 0x204) = true ∧
    ends (((start 0x5120).setReg 1 7).setReg 2 8) (fun t => t.pc == 0x202) = true := by decide

theorem test_sne_register :
    ends (((start 0x9120).setReg 1 7).setReg 2 8) (fun t => t.pc == 0x204) = true ∧
    ends (start 0x9110) (fun t => t.pc == 0x202) = true := by decide

/-! ## Registers and immediates (V5) -/

theorem test_ld_byte_into_vf : ends ((start 0x6FAA).setReg 15 1) (fun t => t.reg 15 == 0xAA) = true := by decide

theorem test_add_byte_leaves_vf :
    ends (((start 0x7180).setReg 1 0x80).setReg 15 0x55) (fun t => t.reg 1 == 0 && t.reg 15 == 0x55) = true := by decide

theorem test_ld_i : ends ((start 0xA123).setI 0xFFFF) (fun t => t.I == 0x0123) = true := by decide

theorem test_rnd_masks :
    ends { start 0xC30F with randIn := some 0xA5 } (fun t => t.reg 3 == 0x05 && t.randIn.isNone) = true := by decide

theorem test_rnd_with_mask_zero : ends (start 0xC300) (fun t => t.reg 3 == 0x00 && t.pc == 0x202) = true := by
  simp [ends, step, fetchedInstr, show decodeWord (fetchWord (start 0xC300)) = .rndVxNn 3 0x00 by decide, exec, execRndVxNn,
    finishStep, timerTick, State.nextDraw, State.setReg, State.reg]
  decide

/-! ## ALU (V6) -/

theorem test_copy : ends (((start 0x8120).setReg 1 0x12).setReg 2 0x34) (fun t => t.reg 1 == 0x34) = true := by decide

theorem test_or_leaves_vf : ends ((start 0x8121).setReg 15 1) (fun t => t.reg 1 == 0 && t.reg 15 == 1) = true := by decide

theorem test_and : ends (((start 0x8122).setReg 1 0xF0).setReg 2 0x3C) (fun t => t.reg 1 == 0x30) = true := by decide

theorem test_xor : ends (((start 0x8123).setReg 1 0xF0).setReg 2 0x3C) (fun t => t.reg 1 == 0xCC) = true := by decide

theorem test_add_carry :
    ends (((start 0x8124).setReg 1 0xFF).setReg 2 0x01) (fun t => t.reg 1 == 0x00 && t.reg 15 == 1) = true ∧
    ends (((start 0x8124).setReg 1 0x7F).setReg 2 0x80) (fun t => t.reg 1 == 0xFF && t.reg 15 == 0) = true := by decide

theorem test_add_flag_wins :
    ends (((start 0x8F14).setReg 15 0xFF).setReg 1 1) (fun t => t.reg 15 == 1) = true ∧
    ends (((start 0x81F4).setReg 1 1).setReg 15 0xFF) (fun t => t.reg 1 == 0 && t.reg 15 == 1) = true := by decide

theorem test_sub :
    ends (((start 0x8125).setReg 1 0x01).setReg 2 0x10) (fun t => t.reg 1 == 0xF1 && t.reg 15 == 0) = true ∧
    ends (((start 0x8125).setReg 1 5).setReg 2 5) (fun t => t.reg 1 == 0 && t.reg 15 == 1) = true := by decide

theorem test_subn :
    ends (((start 0x8127).setReg 1 0x01).setReg 2 0x10) (fun t => t.reg 1 == 0x0F && t.reg 15 == 1) = true ∧
    ends (((start 0x8127).setReg 1 0x10).setReg 2 0x01) (fun t => t.reg 1 == 0xF1 && t.reg 15 == 0) = true := by decide

theorem test_shr :
    ends ((start 0x8126).setReg 1 5) (fun t => t.reg 1 == 2 && t.reg 15 == 1) = true ∧
    ends (((startWith shiftVy 0x8126).setReg 1 5).setReg 2 0x80) (fun t => t.reg 1 == 0x40 && t.reg 15 == 0) = true := by decide

theorem test_shl :
    ends ((start 0x812E).setReg 1 0x81) (fun t => t.reg 1 == 2 && t.reg 15 == 1) = true ∧
    ends ((startWith shiftVy 0x812E).setReg 2 0x81) (fun t => t.reg 1 == 2 && t.reg 15 == 1) = true := by decide

/-! ## Display (V3) -/

theorem test_cls :
    ends (((start 0x00E0).togglePixel 2047).setReg 15 7)
      (fun t => !t.pixel 2047 && !t.pixel 0 && t.reg 15 == 7) = true := by decide

theorem test_drw_clips :
    ends ((((start 0xD011).setReg 0 0x3C).setReg 1 1).setI 0x300 |>.poke 0x300 0xFF)
      (fun t => !t.pixel 123 && t.pixel 124 && t.pixel 127 && !t.pixel 64 && !t.pixel 128 && t.reg 15 == 0) = true := by decide

theorem test_drw_wraps_and_collides :
    ends ((((startWith wrapping 0xD011).setReg 0 0x3C).setReg 1 1).setI 0x300 |>.poke 0x300 0xFF |>.togglePixel 67)
      (fun t => t.pixel 124 && t.pixel 127 && t.pixel 64 && !t.pixel 67 && !t.pixel 68 && t.reg 15 == 1) = true := by decide

/-! ## Keys and timers (V7) -/

theorem test_skp :
    ends { (start 0xE29E).setReg 2 9 with keys := keys3and9 } (fun t => t.pc == 0x204) = true ∧
    ends ((start 0xE29E).setReg 2 0x10) (fun t => t.pc == 0x202 && t.fault == 0x20) = true := by decide

theorem test_sknp :
    ends { (start 0xE2A1).setReg 2 9 with keys := keys3and9 } (fun t => t.pc == 0x202) = true ∧
    ends ((start 0xE2A1).setReg 2 0x10) (fun t => t.pc == 0x204 && t.fault == 0x20) = true := by decide

theorem test_ld_from_dt : ends ((start 0xF307).setDT 0x10) (fun t => t.reg 3 == 0x10 && t.DT == 0x0F) = true := by decide

theorem test_wait_retries :
    ends ((start 0xF50A).setDT 3) (fun t => t.pc == 0x200 && t.DT == 2 && t.reg 5 == 0) = true := by decide

theorem test_wait_takes_the_lowest_key :
    ends { start 0xF50A with keys := keys3and9 } (fun t => t.reg 5 == 3 && t.pc == 0x202 && t.key 3) = true ∧
    ends { startWith clearing 0xF50A with keys := keys3and9 } (fun t => t.reg 5 == 3 && !t.key 3 && t.key 9) = true := by decide

theorem test_ld_to_dt : ends ((start 0xF015).setReg 0 0xFF) (fun t => t.DT == 0xFE) = true := by decide

theorem test_ld_to_st : ends ((start 0xF418).setReg 4 0x3C) (fun t => t.ST == 0x3B && t.DT == 0) = true := by decide

/-! ## Index and memory (V8) -/

theorem test_add_i_wraps :
    ends (((start 0xF11E).setReg 1 1).setI 0xFFFF) (fun t => t.I == 0 && t.reg 15 == 0 && t.fault == 0) = true := by decide

theorem test_ld_f :
    ends ((start 0xF129).setReg 1 0x0F) (fun t => t.I == 0x09B) = true ∧
    ends ((start 0xF129).setReg 1 0xFF) (fun t => t.I == 0x54B) = true := by decide

theorem test_bcd :
    ends (((start 0xF133).setReg 1 0xFF).setI 0x300)
      (fun t => t.peek 0x300 == 2 && t.peek 0x301 == 5 && t.peek 0x302 == 5 && t.I == 0x300) = true := by decide

theorem test_bcd_past_memory :
    ends (((start 0xF133).setReg 1 0x7B).setI 0xFFE)
      (fun t => t.peek 0xFFE == 1 && t.peek 0xFFF == 2 && t.fault == 0x10 && t.I == 0xFFE) = true := by decide

theorem test_store_past_memory :
    ends (((((start 0xF355).setReg 0 1).setReg 1 2).setReg 2 3).setReg 3 4 |>.setI 0xFFE)
      (fun t => t.peek 0xFFE == 1 && t.peek 0xFFF == 2 && t.fault == 0x10 && t.I == 0x1002) = true := by decide

theorem test_store_over_the_font :
    ends ((start 0xF055).setI 0x050) (fun t => t.peek 0x050 == 0 && t.peek 0x051 == 0x90 && t.I == 0x051) = true := by decide

theorem test_load_past_memory :
    ends (((start 0xF165).setReg 1 9).setI 0xFFF |>.poke 0xFFF 0xAB)
      (fun t => t.reg 0 == 0xAB && t.reg 1 == 0 && t.fault == 0x08 && t.I == 0x1001) = true := by decide

theorem test_load_reads_the_glyph_of_zero :
    ends ((start 0xF465).setI 0x050)
      (fun t => t.reg 0 == 0xF0 && t.reg 1 == 0x90 && t.reg 4 == 0xF0 && t.reg 5 == 0 && t.I == 0x055) = true := by decide

/-! ## The host's transactions (W1) -/

theorem test_load_image :
    (hostLoad [0x12, 0x34, 0x56] 3584 State.reset).any
      (fun t => t.pc == 0x200 && t.peek 0x200 == 0x12 && t.peek 0x201 == 0x34 && t.peek 0x202 == 0x56) = true ∧
    (hostLoad [0x12, 0x34, 0x56] 2 State.reset).isNone = true ∧ (hostLoad [] 3584 State.reset).isNone = true := by decide

/-! ## Witnesses: a concrete case that meets each statement's hypotheses -/

theorem witness_ConstructLeavesTheResetValues :
    (∃ s : State, s = State.construct shiftVy) ∧ (0x04F ≤ 0xFFF ∧ 0x04F < 0x050) ∧ (0xFFF ≤ 0xFFF ∧ 0x09F < 0x0A0) :=
  ⟨⟨_, rfl⟩, by decide, by decide⟩

theorem witness_ConstructNeedsEightyFontBytes :
    (List.replicate 79 (0 : Byte)).length ≠ 80 ∧ (List.replicate 81 (0 : Byte)).length ≠ 80 ∧
    (List.replicate 80 (0 : Byte)).length = 80 := by simp

theorem witness_LoadPlacesTheImageOrFails :
    ([] : List Byte).length = 0 ∧ min 2 3584 < ([0x12, 0x34, 0x56] : List Byte).length ∧
    min 4000 3584 < (List.replicate 3585 (0 : Byte)).length ∧
    (0 < (List.replicate 3584 (0 : Byte)).length ∧ (List.replicate 3584 (0 : Byte)).length ≤ min 3584 3584) ∧ State.reset.Inv := by
  refine ⟨rfl, by decide, ?_, ⟨?_, ?_⟩, ?_⟩
  · rw [List.length_replicate]; decide
  · rw [List.length_replicate]; decide
  · rw [List.length_replicate]; decide
  · unfold State.Inv; decide

theorem witness_DecodeSelectsTheTableRow :
    (∀ v, Instr.seVxVy 1 2 ≠ .unassigned v) ∧ (Instr.seVxVy 1 2).row.selects 0x512F = true ∧
    (Instr.seVxVy 1 2).row.selects 0x0123 = false := by
  exact ⟨nofun, by decide, by decide⟩

theorem witness_UnassignedWordsAreNoOps :
    isUnassigned (fetchWord (start 0x0123)) = true ∧ isUnassigned (fetchWord (start 0x8ABF)) = true ∧
    isUnassigned (fetchWord (start 0xE1A2)) = true ∧ isUnassigned (fetchWord (start 0xFFFF)) = true := by decide

theorem witness_DecoderConsumesTwoBytes : ([] : List Byte).length < 2 ∧ ([0x12] : List Byte).length < 2 := by decide

theorem witness_DecodeOfEncodeIsTheInstruction :
    (Instr.drw 0xF 0xF 0xF).wf = true ∧ (Instr.jp 0xFFF).wf = true ∧ (Instr.unassigned 0xFFFF).wf = true := by decide

theorem witness_StepRunsTheDecodedInstruction :
    ∃ (s s1 : State) (hi lo : Byte × State) (w : Word), s = start 0x8124 ∧
      hi = fetchRead s.pc.toNat s ∧ lo = fetchRead (s.pc.toNat + 1) hi.2 ∧ w = wordOf hi.1 lo.1 ∧
      s1 = { lo.2 with opcode := w, pc := s.pc + 2 } :=
  ⟨_, _, _, _, _, rfl, rfl, rfl, rfl, rfl⟩

theorem witness_FetchIsBigEndianAndZeroPastMemory :
    (State.reset.setPc 0xFFE).pc.toNat + 1 ≤ 0xFFF ∧ ¬ (State.reset.setPc 0xFFF).pc.toNat + 1 ≤ 0xFFF := by decide

theorem witness_StepKeepsTheInvariant : ((start 0x2300).raise .keyOob).Inv := by
  unfold State.Inv; decide

theorem witness_InstructionsWriteOnlyWhatTheTableNames :
    writtenReg (.drw 0 1 2) 0 = false ∧ writtenReg (.ldVxMem 14) 15 = false ∧ State.reset.cfg.fx0aClearsKey = false ∧
    Part.mem ∉ writtenParts (.drw 0 1 2) := by decide

theorem witness_FaultBitsAreSticky : (State.reset.raise .keyOob).fault.getLsbD 5 = true := by decide

theorem witness_FaultBitsAreRaisedAsTheTableSays :
    raises { State.reset with sp := 16 } (.call 0x300) .stackOverflow ∧ raises State.reset .ret .stackUnderflow ∧
    raises (State.reset.setI 0xFFF) (.drw 0 1 2) .readOob ∧ raises (State.reset.setI 0xFFF) (.ldVxMem 1) .readOob ∧
    raises (State.reset.setI 0xFFE) (.ldBVx 0) .writeOob ∧ raises (State.reset.setI 0xFFF) (.ldMemVx 1) .writeOob ∧
    raises (State.reset.setReg 1 0x10) (.skp 1) .keyOob ∧ raises (State.reset.setReg 1 0x10) (.sknp 1) .keyOob ∧
    ¬ raises (State.reset.setI 0xFFE) (.drw 0 1 2) .readOob := by
  refine ⟨rfl, rfl, ⟨1, by decide, by decide⟩, ⟨1, by decide, by decide⟩, ⟨2, by decide, by decide⟩, ⟨1, by decide, by decide⟩,
    by unfold raises; decide, by unfold raises; decide, ?_⟩
  rintro ⟨r, hr, h⟩
  have h1 : ((State.reset.setI 0xFFE).I).toNat = 0xFFE := by decide
  have h2 : ((2 : Fin 16) : Nat) = 2 := rfl
  omega

theorem witness_InputsAreReadOnlyByTheirInstructions :
    (∀ x nn, Instr.ret ≠ .rndVxNn x nn) ∧ (∀ x, Instr.ret ≠ .skp x) ∧ (∀ x, Instr.ret ≠ .sknp x) ∧
    (∀ x, Instr.ret ≠ .ldVxK x) ∧ Instr.ret ≠ .cls ∧ (∀ x y n, Instr.ret ≠ .drw x y n) := by
  simp

theorem witness_SelfJumpChangesOnlyTimersAndOpcode : (start 0x1200).AtSelfJump := ⟨0x200, by decide, by decide⟩

theorem witness_StoresAreSeenByTheNextFetch :
    fetchedInstr ((start 0xF155).setI 0x202) = .ldMemVx 1 ∧
    ((start 0xF155).setI 0x202).I = ((start 0xF155).setI 0x202).pc + 2 ∧
    ((start 0xF155).setI 0x202).I.toNat + 1 ≤ 0xFFF ∧ 1 ≤ (1 : Reg).val := by decide

/-- At the last word of memory that a store can still replace. -/
theorem witness_StoresAreSeenByTheNextFetch_at_the_end :
    (((State.reset.setPc 0xFFC).withFetchWord 16 0xF055).setI 0xFFE).I.toNat + 1 ≤ 0xFFF ∧
    fetchedInstr (((State.reset.setPc 0xFFC).withFetchWord 16 0xF055).setI 0xFFE) = .ldMemVx 0 ∧
    (((State.reset.setPc 0xFFC).withFetchWord 16 0xF055).setI 0xFFE).I = 0xFFC + 2 := by decide

theorem witness_HostPixelWordIsAllOnesOrZero : 31 < State.reset.cfg.pixelBits := by decide

theorem witness_JpSetsPc : (0x1345#16).toNat / 4096 = 0x1 := by decide

theorem witness_JpV0AddsRegisterZero : (0xBF01#16).toNat / 4096 = 0xB := by decide

theorem witness_ComparingSkipsSkipTwoBytes :
    (0x3312#16).toNat / 4096 = 0x3 ∧ (0x4312#16).toNat / 4096 = 0x4 ∧ (0x512F#16).toNat / 4096 = 0x5 ∧
    (0x9AB7#16).toNat / 4096 = 0x9 ∧ ((start 0x3312).setReg 3 0x12).reg 3 = 0x12 ∧ (start 0x3312).reg 3 ≠ 0x12 := by decide

theorem witness_RetPopsOrRecordsUnderflow :
    (0x01FE#16).toNat / 4096 = 0x0 ∧ (0x01FE#16).toNat % 16 = 0xE ∧ State.reset.sp.val = 0 ∧
    { State.reset with sp := 1 }.sp.val = (0 : Fin 16).val + 1 ∧ { State.reset with sp := 16 }.sp.val = (15 : Fin 16).val + 1 := by
  decide

theorem witness_CallPushesOrRecordsOverflow :
    (0x2300#16).toNat / 4096 = 0x2 ∧ { State.reset with sp := 16 }.sp.val = 16 ∧ State.reset.sp.val = (0 : Fin 16).val ∧
    { State.reset with sp := 15 }.sp.val = (15 : Fin 16).val := by decide

theorem witness_RetReturnsBehindTheCall :
    { State.reset with sp := 15 }.sp.val < 16 ∧
    ∃ t, exec (.call 0x300) { State.reset with sp := 15 } = .next t ∧ ∃ u : State, u.sp = t.sp ∧
      ∀ k : Fin 16, u.stack[k.val] = t.stack[k.val] :=
  ⟨by decide, _, rfl, _, rfl, fun _ => rfl⟩

theorem witness_ImmediateLoadAndAddWriteOneRegister :
    (0x6FAA#16).toNat / 4096 = 0x6 ∧ (0x7F01#16).toNat / 4096 = 0x7 := by decide

theorem witness_LdIWritesTheIndex : (0xA123#16).toNat / 4096 = 0xA := by decide

theorem witness_RndMasksTheRandomByte :
    (0xC3F0#16).toNat / 4096 = 0xC ∧ fetchedInstr (start 0xC3F0) = .rndVxNn 3 0xF0 := by decide

theorem witness_CopyAndLogicWriteOneRegister :
    (0x8AF3#16).toNat / 4096 = 0x8 ∧ (0xA : Reg).val = (0x8AF3#16).toNat / 256 % 16 ∧ (0xF : Reg).val = (0x8AF3#16).toNat / 16 % 16 ∧
    (0x8AF0#16).toNat % 16 = 0x0 ∧ (0x8AF1#16).toNat % 16 = 0x1 ∧ (0x8AF2#16).toNat % 16 = 0x2 ∧ (0x8AF3#16).toNat % 16 = 0x3 := by
  decide

/-- AddSetsCarry and SubtractionsSetNoBorrow: a destination that is not VF, a register that is neither, both sides of each flag. -/
theorem witness_AddSetsCarry_and_Subtractions :
    (1 : Reg) ≠ 15 ∧ (2 : Reg) ≠ 1 ∧ (2 : Reg) ≠ 15 ∧ 255 < (0xFF#8).toNat + (0x01#8).toNat ∧ ¬ 255 < (0xFF#8).toNat + (0x00#8).toNat ∧
    (0x05#8).toNat ≤ (0x05#8).toNat ∧ ¬ (0x10#8).toNat ≤ (0x01#8).toNat := by decide

theorem witness_ShiftsSetTheBitShiftedOut :
    ((start 0x8126).setReg 1 5).reg 1 = (match ((start 0x8126).setReg 1 5).cfg.shiftSource with
      | .vx => ((start 0x8126).setReg 1 5).reg 1 | .vy => ((start 0x8126).setReg 1 5).reg 2) ∧
    ((startWith shiftVy 0x8126).setReg 2 4).reg 2 = (match ((startWith shiftVy 0x8126).setReg 2 4).cfg.shiftSource with
      | .vx => ((startWith shiftVy 0x8126).setReg 2 4).reg 1 | .vy => ((startWith shiftVy 0x8126).setReg 2 4).reg 2) := by decide

theorem witness_KeySkipsReadTheLatch :
    (State.reset.reg 2).toNat = (0 : Fin 16).val ∧ ((State.reset.setReg 2 15).reg 2).toNat = (15 : Fin 16).val ∧
    15 < ((State.reset.setReg 2 16).reg 2).toNat ∧ { State.reset with keys := keys3and9 }.key 9 = true := by decide

theorem witness_TimerInstructionsMoveTheTimers :
    (0xFF18#16).toNat / 4096 = 0xF ∧ (0xF : Reg).val = (0xFF18#16).toNat / 256 % 16 ∧
    (0xFF07#16).toNat % 256 = 0x07 ∧ (0xFF15#16).toNat % 256 = 0x15 ∧ (0xFF18#16).toNat % 256 = 0x18 ∧
    fetchedInstr (start 0xF307) = .ldVxDt 3 ∧ fetchedInstr (start 0xF015) = .ldDtVx 0 ∧ fetchedInstr (start 0xF418) = .ldStVx 4 := by
  decide

theorem witness_WaitForKeyTakesTheLowestKey :
    { State.reset with keys := keys3and9 }.key 3 = true ∧
    (∀ j : Fin 16, j < 3 → { State.reset with keys := keys3and9 }.key j = false) ∧
    (∀ k, { State.reset with keys := keysUp }.key k = false) ∧
    fetchedInstr (start 0xF50A) = .ldVxK 5 ∧ (∀ k, (start 0xF50A).key k = false) := by decide

theorem witness_IndexInstructionsWriteI :
    (0xFF1E#16).toNat / 4096 = 0xF ∧ (0xF : Reg).val = (0xFF1E#16).toNat / 256 % 16 ∧ (0xFF1E#16).toNat % 256 = 0x1E ∧
    (0xFF29#16).toNat % 256 = 0x29 := by decide

theorem witness_BcdStoresThreeDigits :
    (State.reset.setI 0xFFF).effAddr 0 ≤ 0xFFF ∧ (State.reset.setI 0xFFE).effAddr 1 ≤ 0xFFF ∧
    (State.reset.setI 0xFFD).effAddr 2 ≤ 0xFFF ∧ ¬ (State.reset.setI 0xFFE).effAddr 2 ≤ 0xFFF ∧
    0xFFC < (State.reset.setI 0xFFD).effAddr 0 ∧ (State.reset.setI 0x300).effAddr 2 < 0x303 := by decide

theorem witness_StoreRegistersWritesV0ToVx :
    (1 : Reg) ≤ 1 ∧ (State.reset.setI 0xFFE).effAddr (1 : Reg).val ≤ 0xFFF ∧
    (∀ r : Reg, r ≤ 1 → 0x302 ≠ (State.reset.setI 0x300).effAddr r.val) ∧
    ¬ (State.reset.setI 0xFFF).effAddr (1 : Reg).val ≤ 0xFFF := by decide

theorem witness_LoadRegistersReadsV0ToVx :
    (1 : Reg) ≤ 1 ∧ (1 : Reg) < 2 ∧ (State.reset.setI 0xFFE).effAddr (1 : Reg).val ≤ 0xFFF ∧
    ¬ (State.reset.setI 0xFFF).effAddr (1 : Reg).val ≤ 0xFFF := by decide

theorem witness_LoadGivesBackWhatStoreStored :
    (State.reset.setI 0xFF0).effAddr (15 : Reg).val ≤ 0xFFF ∧
    ∃ t, exec (.ldMemVx 15) (State.reset.setI 0xFF0) = .next t ∧
      ∃ u : State, u.I = (State.reset.setI 0xFF0).I ∧ ∀ a, u.peek a = t.peek a :=
  ⟨by decide, _, rfl, { (State.reset.setI 0xFF0) with mem := _ }, rfl, fun _ => rfl⟩

theorem witness_ClsTurnsEveryPixelOff : (0x0120#16).toNat / 4096 = 0x0 ∧ (0x0120#16).toNat % 16 = 0x0 := by decide

/-- V3 row 2's sprite at the right edge: which pixels it covers under CLIP. -/
def edgeSprite : State := (((start 0xD011).setReg 0 0x3C).setReg 1 1).setI 0x300 |>.poke 0x300 0xFF

/-- The same under WRAP. -/
def edgeSpriteWrapped : State := (((startWith wrapping 0xD011).setReg 0 0x3C).setReg 1 1).setI 0x300 |>.poke 0x300 0xFF

theorem covers_under_clip {s : State} {x y : Reg} {n : Fin 16} {p : Fin 2048} (r c : Nat) (e : s.cfg.drawEdge = .clip)
    (hr : r < n.val) (hc : c < 8) (hb : (s.byteAt (s.I.toNat + r)).getLsbD (7 - c) = true)
    (hp : s.originX x + c = p.val % 64 ∧ s.originY y + r = p.val / 64) : s.spriteCovers x y n p :=
  ⟨r, c, hr, hc, hb, by rw [e]; exact hp⟩

theorem covers_under_wrap {s : State} {x y : Reg} {n : Fin 16} {p : Fin 2048} (r c : Nat) (e : s.cfg.drawEdge = .wrap)
    (hr : r < n.val) (hc : c < 8) (hb : (s.byteAt (s.I.toNat + r)).getLsbD (7 - c) = true)
    (hp : (s.originX x + c) % 64 = p.val % 64 ∧ (s.originY y + r) % 32 = p.val / 64) : s.spriteCovers x y n p :=
  ⟨r, c, hr, hc, hb, by rw [e]; exact hp⟩

theorem edgeSprite_covers_127 : edgeSprite.spriteCovers 0 1 1 127 :=
  covers_under_clip 0 3 rfl (by decide) (by decide) (by decide) (by decide)

theorem witness_DrwTogglesExactlyTheCoveredPixels :
    edgeSprite.spriteCovers 0 1 1 127 ∧ ¬ edgeSprite.spriteCovers 0 1 1 64 ∧ edgeSpriteWrapped.spriteCovers 0 1 1 64 := by
  refine ⟨edgeSprite_covers_127, ?_, covers_under_wrap 0 4 rfl (by decide) (by decide) (by decide) (by decide)⟩
  rintro ⟨r, c, _, _, _, h⟩
  have e : edgeSprite.cfg.drawEdge = .clip := rfl
  rw [e] at h
  have h0 : edgeSprite.originX 0 = 60 := by decide
  have h1 : (64 : Fin 2048).val = 64 := rfl
  rw [h0, h1] at h
  omega

/-- Both cases of the flag: a covered pixel that is ON, and none. -/
theorem witness_DrwFlagSaysAPixelWasErased :
    (∃ p : Fin 2048, (edgeSprite.togglePixel 127).spriteCovers 0 1 1 p ∧ (edgeSprite.togglePixel 127).pixel p = true) ∧
    (∀ p : Fin 2048, edgeSprite.spriteCovers 0 1 0 p → edgeSprite.pixel p = false) :=
  ⟨⟨127, covers_under_clip 0 3 rfl (by decide) (by decide) (by decide) (by decide), by decide⟩, fun _ ⟨r, _, h, _⟩ => absurd h (Nat.not_lt_zero r)⟩

theorem witness_DrwWritesOnlyPixelsFlagAndReadFault :
    (0xDFFF#16).toNat / 4096 = 0xD ∧ (∀ r, r < (1 : Fin 16).val → (State.reset.setI 0xFFF).effAddr r ≤ 0xFFF) ∧
    (∃ r, r < (2 : Fin 16).val ∧ 0xFFF < (State.reset.setI 0xFFF).effAddr r) :=
  ⟨by decide, by decide, 1, by decide, by decide⟩

theorem witness_DrawingTwiceRestoresTheScreen :
    (0 : Reg) ≠ 15 ∧ (1 : Reg) ≠ 15 ∧ (∀ p : Fin 2048, edgeSprite.pixel p = false) ∧
    edgeSprite.spriteCovers 0 1 1 127 :=
  ⟨by decide, by decide, fun p => by simp [edgeSprite, start, State.pixel, Screen.pixel, State.withFetchWord, State.reset,
    State.construct, State.setReg, State.setI, State.poke], edgeSprite_covers_127⟩

theorem witness_Safe_reset : State.reset.Safe := by unfold State.Safe; decide

end Sys2Proof.Tests
end

section
/-! PROOFS. The statements of 10_state.md: `opcode` (R31) and the values after `construct` (R38). -/

namespace Sys2Proof.Machine

/-! ### `opcode` through the execute part -/

theorem execRet_keeps_opcode (s : State) : ∃ t, execRet s = .next t ∧ t.opcode = s.opcode := by
  by_cases h : s.sp.val = 0
  · exact ⟨s.raise .stackUnderflow, by simp [execRet, pop?_empty h], rfl⟩
  · simp [execRet, pop?_some (Nat.pos_of_ne_zero h)]

theorem execCall_keeps_opcode (nnn : Addr) (s : State) : ∃ t, execCall nnn s = .next t ∧ t.opcode = s.opcode := by
  by_cases h : s.sp.val = 16
  · exact ⟨s.raise .stackOverflow, by simp [execCall, push?_full s.pc h], rfl⟩
  · have hroom : s.sp.val < 16 := by omega
    simp [execCall, push?_room s.pc hroom]

@[simp] theorem takeKey_opcode (x : Reg) (k : Fin 16) (s : State) : (takeKey x k s).opcode = s.opcode := by
  unfold takeKey
  split <;> rfl

theorem execLdVxK_keeps_opcode (x : Reg) (s : State) : ∃ t, execLdVxK x s = .next t ∧ t.opcode = s.opcode := by
  cases h : s.firstKeyDown? with
  | none => exact ⟨s.setPc (s.pc - 2), by simp [execLdVxK, h], rfl⟩
  | some k => exact ⟨takeKey x k s, by simp [execLdVxK, h], takeKey_opcode x k s⟩

/-- No instruction's execute part writes `opcode`, and every one answers a next state. -/
theorem exec_keeps_opcode (i : Instr) (s : State) : ∃ t, exec i s = .next t ∧ t.opcode = s.opcode := by
  cases i with
  | ret => exact execRet_keeps_opcode s
  | call nnn => exact execCall_keeps_opcode nnn s
  | ldVxK x => exact execLdVxK_keeps_opcode x s
  | seVxNn | sneVxNn | seVxVy | sneVxVy => exact ⟨_, rfl, skipIf_opcode s _⟩
  | skp | sknp => exact ⟨_, rfl, by rw [skipIf_opcode, keyRead_opcode]⟩
  | drw => exact ⟨_, rfl, by rw [setFlag_opcode, drawSprite_opcode]⟩
  | ldBVx => exact ⟨_, rfl, writeBytes_opcode _ _ s⟩
  | ldMemVx => exact ⟨_, rfl, by rw [setI_opcode, storeRegs_opcode]⟩
  | ldVxMem => exact ⟨_, rfl, by rw [setI_opcode, loadRegs_opcode]⟩
  | _ => exact ⟨_, rfl, rfl⟩

theorem step_opcode (s : State) : ∃ t, step s = .next t ∧ t.opcode = fetchWord s := by
  obtain ⟨t, hexec, hopcode⟩ := exec_keeps_opcode (fetchedInstr s) (fetchAdvance s)
  exact ⟨finishStep t, step_of_exec hexec, hopcode⟩

/-! ### The fetch does not read `opcode` -/

theorem fetchRead_with_opcode (a : Nat) (s : State) (w : Word) :
    fetchRead a { s with opcode := w } = ((fetchRead a s).1, { (fetchRead a s).2 with opcode := w }) := by
  unfold fetchRead
  split <;> rfl

theorem fetchHi_with_opcode (s : State) (w : Word) :
    fetchHi { s with opcode := w } = ((fetchHi s).1, { (fetchHi s).2 with opcode := w }) :=
  fetchRead_with_opcode _ s w

theorem fetchLo_with_opcode (s : State) (w : Word) :
    fetchLo { s with opcode := w } = ((fetchLo s).1, { (fetchLo s).2 with opcode := w }) := by
  rw [fetchLo, fetchHi_with_opcode]
  exact fetchRead_with_opcode _ (fetchHi s).2 w

theorem fetchWord_with_opcode (s : State) (w : Word) : fetchWord { s with opcode := w } = fetchWord s := by
  rw [fetchWord, fetchHi_with_opcode, fetchLo_with_opcode, fetchWord]

/-- The fetch overwrites `opcode`, so the state it hands to the execute part has nothing of the earlier one. -/
theorem fetchAdvance_with_opcode (s : State) (w : Word) : fetchAdvance { s with opcode := w } = fetchAdvance s := by
  rw [fetchAdvance, fetchLo_with_opcode, fetchWord_with_opcode, fetchAdvance]

theorem step_with_opcode (s : State) (w : Word) : step { s with opcode := w } = step s := by
  rw [step, fetchedInstr, fetchWord_with_opcode, fetchAdvance_with_opcode, step, fetchedInstr]

/-- Settles O14: no execute part writes `opcode` after the fetch has, and the fetch does not read it. -/
theorem opcodeHoldsTheFetchedWord : Obligations.OpcodeHoldsTheFetchedWord := by
  intro s
  exact ⟨step_opcode s, step_with_opcode s⟩

/-! ### What the constructed state reads as -/

@[simp] theorem reg_construct (cfg : Config) (r : Reg) : (State.construct cfg).reg r = 0x00 := by
  simp [State.reg, State.construct]

@[simp] theorem stack_construct (cfg : Config) (k : Fin 16) : (State.construct cfg).stack[k.val] = 0x0000 := by
  simp [State.construct]

@[simp] theorem key_construct (cfg : Config) (k : Fin 16) : (State.construct cfg).key k = false := by
  simp [State.key, State.construct]

@[simp] theorem pixel_construct (cfg : Config) (p : Fin 2048) : (State.construct cfg).pixel p = false :=
  pixel_blank p

/-- Constructed memory lists nothing, so every address reads as the reset contents. -/
theorem peek_construct (cfg : Config) (a : Nat) : (State.construct cfg).peek a = Memory.unlisted cfg a := rfl

theorem unlisted_font (cfg : Config) (k : Fin 80) : Memory.unlisted cfg (0x050 + k.val) = cfg.font[k.val] := by
  have hfont : 0x050 ≤ 0x050 + k.val ∧ 0x050 + k.val < 0x0A0 := by omega
  simp [Memory.unlisted, hfont]

theorem unlisted_outside_font (cfg : Config) {a : Nat} (h : a < 0x050 ∨ 0x09F < a) : Memory.unlisted cfg a = 0x00 := by
  have hout : ¬ (0x050 ≤ a ∧ a < 0x0A0) := by omega
  rw [Memory.unlisted, dif_neg hout]

/-- Settles O1: memory through `Memory.unlisted`, the vectors entry by entry, the other elements by definition. -/
theorem constructLeavesTheResetValues : Obligations.ConstructLeavesTheResetValues := by
  refine ⟨⟨defaultConfig, rfl⟩, ?_⟩
  rintro cfg _ rfl
  exact ⟨reg_construct cfg, rfl, rfl, stack_construct cfg, rfl, rfl, rfl, unlisted_font cfg,
    fun _ _ hout => unlisted_outside_font cfg hout, pixel_construct cfg, key_construct cfg, rfl, rfl⟩

end Sys2Proof.Machine
end

section
/-! PROOFS. The statements of 30_encoding.md: the decoder against the opcode table (R93), the unassigned words (R92), the two
bytes of an instruction (R95) and the five parts of a step (R83). -/

namespace Sys2Proof

/-! ### The first level of the dispatch (R86) -/

/-- Every answer of the first level, the groups with a second dispatch first. -/
theorem decodeWord_cases (w : Word) :
    (w.toNat / 4096 = 0x0 ∧ decodeWord w = decodeGroup0 w) ∨
    (w.toNat / 4096 = 0x8 ∧ decodeWord w = decodeGroup8 w) ∨
    (w.toNat / 4096 = 0xE ∧ decodeWord w = decodeGroupE w) ∨
    (w.toNat / 4096 = 0xF ∧ decodeWord w = decodeGroupF w) ∨
    (w.toNat / 4096 = 0x1 ∧ decodeWord w = .jp (fieldNnn w)) ∨
    (w.toNat / 4096 = 0x2 ∧ decodeWord w = .call (fieldNnn w)) ∨
    (w.toNat / 4096 = 0x3 ∧ decodeWord w = .seVxNn (fieldX w) (fieldNn w)) ∨
    (w.toNat / 4096 = 0x4 ∧ decodeWord w = .sneVxNn (fieldX w) (fieldNn w)) ∨
    (w.toNat / 4096 = 0x5 ∧ decodeWord w = .seVxVy (fieldX w) (fieldY w)) ∨
    (w.toNat / 4096 = 0x6 ∧ decodeWord w = .ldVxNn (fieldX w) (fieldNn w)) ∨
    (w.toNat / 4096 = 0x7 ∧ decodeWord w = .addVxNn (fieldX w) (fieldNn w)) ∨
    (w.toNat / 4096 = 0x9 ∧ decodeWord w = .sneVxVy (fieldX w) (fieldY w)) ∨
    (w.toNat / 4096 = 0xA ∧ decodeWord w = .ldINnn (fieldNnn w)) ∨
    (w.toNat / 4096 = 0xB ∧ decodeWord w = .jpV0Nnn (fieldNnn w)) ∨
    (w.toNat / 4096 = 0xC ∧ decodeWord w = .rndVxNn (fieldX w) (fieldNn w)) ∨
    (w.toNat / 4096 = 0xD ∧ decodeWord w = .drw (fieldX w) (fieldY w) (fieldN w)) := by
  have hgroup : w.toNat / 4096 < 16 := by have := w.isLt; omega
  interval_cases h : w.toNat / 4096 <;>
    simp only [decodeWord_group0, decodeWord_group1, decodeWord_group2, decodeWord_group3, decodeWord_group4,
      decodeWord_group5, decodeWord_group6, decodeWord_group7, decodeWord_group8, decodeWord_group9, decodeWord_groupA,
      decodeWord_groupB, decodeWord_groupC, decodeWord_groupD, decodeWord_groupE, decodeWord_groupF, h, true_and, true_or,
      or_true]

/-! ### A row selects the words that decode to its instruction -/

/-- The default row selects every word. -/
theorem row_unassigned_selects (v w : Word) : (Instr.unassigned v).row.selects w = true :=
  Laws.EncodedRow.unassigned w

/-! The three shapes of row: selection compares the group, and in groups 0, 8, E and F the low nibble or the low byte. -/

theorem selects_group_iff {w p : Word} (hp : p &&& 0xF000#16 = p) :
    (OpcodeRow.mk 0xF000#16 p).selects w = true ↔ w.toNat / 4096 = p.toNat / 4096 := by
  have hbits := and_F000 p
  rw [hp] at hbits
  rw [selects_F000]
  omega

theorem selects_group_nibble_iff {w p : Word} (hp : p &&& 0xF000#16 ||| p &&& 0x000F#16 = p) :
    (OpcodeRow.mk 0xF00F#16 p).selects w = true ↔ w.toNat / 4096 = p.toNat / 4096 ∧ w.toNat % 16 = p.toNat % 16 := by
  have hparts := selects_F00F w (p &&& 0xF000#16) (p &&& 0x000F#16) (by simp [BitVec.and_assoc]) (by simp [BitVec.and_assoc])
  rw [hp, and_F000, and_000F] at hparts
  rw [hparts]
  omega

theorem selects_group_byte_iff {w p : Word} (hp : p &&& 0xF000#16 ||| p &&& 0x00FF#16 = p) :
    (OpcodeRow.mk 0xF0FF#16 p).selects w = true ↔ w.toNat / 4096 = p.toNat / 4096 ∧ w.toNat % 256 = p.toNat % 256 := by
  have hparts := selects_F0FF w (p &&& 0xF000#16) (p &&& 0x00FF#16) (by simp [BitVec.and_assoc]) (by simp [BitVec.and_assoc])
  rw [hp, and_F000, and_00FF] at hparts
  rw [hparts]
  omega

theorem decodeGroup0_row_selects {w : Word} (hg : w.toNat / 4096 = 0x0) : (decodeGroup0 w).row.selects w = true := by
  obtain ⟨hn, e⟩ | ⟨hn, e⟩ | ⟨-, -, e⟩ := decodeGroup0_cases w <;> rw [e]
  · exact (selects_group_nibble_iff rfl).2 ⟨hg, hn⟩
  · exact (selects_group_nibble_iff rfl).2 ⟨hg, hn⟩
  · exact row_unassigned_selects w w

theorem decodeGroup8_row_selects {w : Word} (hg : w.toNat / 4096 = 0x8) : (decodeGroup8 w).row.selects w = true := by
  obtain ⟨hn, e⟩ | ⟨hn, e⟩ | ⟨hn, e⟩ | ⟨hn, e⟩ | ⟨hn, e⟩ | ⟨hn, e⟩ | ⟨hn, e⟩ | ⟨hn, e⟩ | ⟨hn, e⟩ |
    ⟨-, -, -, -, -, -, -, -, -, e⟩ := decodeGroup8_cases w <;> rw [e]
  on_goal 10 => exact row_unassigned_selects w w
  all_goals exact (selects_group_nibble_iff rfl).2 ⟨hg, hn⟩

theorem decodeGroupE_row_selects {w : Word} (hg : w.toNat / 4096 = 0xE) : (decodeGroupE w).row.selects w = true := by
  obtain ⟨hn, e⟩ | ⟨hn, e⟩ | ⟨-, -, e⟩ := decodeGroupE_cases w <;> rw [e]
  · exact (selects_group_byte_iff rfl).2 ⟨hg, hn⟩
  · exact (selects_group_byte_iff rfl).2 ⟨hg, hn⟩
  · exact row_unassigned_selects w w

theorem decodeGroupF_row_selects {w : Word} (hg : w.toNat / 4096 = 0xF) : (decodeGroupF w).row.selects w = true := by
  obtain ⟨hn, e⟩ | ⟨hn, e⟩ | ⟨hn, e⟩ | ⟨hn, e⟩ | ⟨hn, e⟩ | ⟨hn, e⟩ | ⟨hn, e⟩ | ⟨hn, e⟩ | ⟨hn, e⟩ |
    ⟨-, -, -, -, -, -, -, -, -, e⟩ := decodeGroupF_cases w <;> rw [e]
  on_goal 10 => exact row_unassigned_selects w w
  all_goals exact (selects_group_byte_iff rfl).2 ⟨hg, hn⟩

theorem decodeWord_row_selects (w : Word) : (decodeWord w).row.selects w = true := by
  obtain ⟨hg, e⟩ | ⟨hg, e⟩ | ⟨hg, e⟩ | ⟨hg, e⟩ | ⟨hg, e⟩ | ⟨hg, e⟩ | ⟨hg, e⟩ | ⟨hg, e⟩ | ⟨hg, e⟩ | ⟨hg, e⟩ | ⟨hg, e⟩ |
    ⟨hg, e⟩ | ⟨hg, e⟩ | ⟨hg, e⟩ | ⟨hg, e⟩ | ⟨hg, e⟩ := decodeWord_cases w <;> rw [e]
  · exact decodeGroup0_row_selects hg
  · exact decodeGroup8_row_selects hg
  · exact decodeGroupE_row_selects hg
  · exact decodeGroupF_row_selects hg
  all_goals exact (selects_group_iff rfl).2 hg

/-- A row other than the default is the row of every word it selects: the dispatch reads only bits of the row's mask. -/
theorem decodeWord_row_of_selects {j : Instr} {w : Word} (hj : ∀ v, j ≠ .unassigned v) (h : j.row.selects w = true) :
    (decodeWord w).row = j.row := by
  cases j <;> simp only [Instr.row] at h
  case unassigned v => exact absurd rfl (hj v)
  case cls | ret =>
    obtain ⟨hg, hn⟩ := (selects_group_nibble_iff rfl).1 h
    rw [decodeWord_group0 hg, decodeGroup0, lowNibble_eq hn]
    rfl
  case ldVxVy | orVxVy | andVxVy | xorVxVy | addVxVy | subVxVy | shrVxVy | subnVxVy | shlVxVy =>
    obtain ⟨hg, hn⟩ := (selects_group_nibble_iff rfl).1 h
    rw [decodeWord_group8 hg, decodeGroup8, lowNibble_eq hn]
    rfl
  case skp | sknp =>
    obtain ⟨hg, hn⟩ := (selects_group_byte_iff rfl).1 h
    rw [decodeWord_groupE hg, decodeGroupE, fieldNn_eq hn]
    rfl
  case ldVxDt | ldVxK | ldDtVx | ldStVx | addIVx | ldFVx | ldBVx | ldMemVx | ldVxMem =>
    obtain ⟨hg, hn⟩ := (selects_group_byte_iff rfl).1 h
    rw [decodeWord_groupF hg, decodeGroupF, fieldNn_eq hn]
    rfl
  all_goals
    have hg := (selects_group_iff rfl).1 h
    rw [decodeWord, groupOf_eq hg]
    rfl

/-- Only the default row has an empty mask. -/
theorem row_ne_row_unassigned {j : Instr} (hj : ∀ v, j ≠ .unassigned v) (v : Word) : (Instr.unassigned v).row ≠ j.row := by
  cases j with
  | unassigned u => exact absurd rfl (hj u)
  | _ => simp [Instr.row]

/-- Settles O5: the row of the decoded instruction selects the word, and no other row but the default does. -/
theorem decodeSelectsTheTableRow : Obligations.DecodeSelectsTheTableRow := by
  intro w
  refine ⟨decodeWord_row_selects w, fun j hj => decodeWord_row_of_selects hj, ?_, fun hnone => ?_⟩
  · rintro ⟨v, hv⟩ j hj
    by_contra hsel
    have hrow := decodeWord_row_of_selects hj (Bool.of_not_eq_false hsel)
    exact row_ne_row_unassigned hj v (hv ▸ hrow)
  · by_contra hne
    have hunselected := hnone (decodeWord w) (not_exists.1 hne)
    simp [decodeWord_row_selects w] at hunselected

/-! ### The unassigned words (R92) -/

theorem isUnassigned_iff (w : Word) : isUnassigned w = true ↔
    (w.toNat / 4096 = 0x0 ∧ w.toNat % 16 ≠ 0x0 ∧ w.toNat % 16 ≠ 0xE) ∨
    (w.toNat / 4096 = 0x8 ∧ (0x8 ≤ w.toNat % 16 ∧ w.toNat % 16 ≤ 0xD ∨ w.toNat % 16 = 0xF)) ∨
    (w.toNat / 4096 = 0xE ∧ w.toNat % 256 ≠ 0x9E ∧ w.toNat % 256 ≠ 0xA1) ∨
    (w.toNat / 4096 = 0xF ∧ w.toNat % 256 ∉ [0x07, 0x0A, 0x15, 0x18, 0x1E, 0x29, 0x33, 0x55, 0x65]) := by
  simp [isUnassigned, unassignedGroup0, unassignedGroup8, unassignedGroupE, unassignedGroupF, or_assoc]

theorem decodeGroup0_eq_unassigned (w : Word) :
    decodeGroup0 w = .unassigned w ↔ w.toNat % 16 ≠ 0x0 ∧ w.toNat % 16 ≠ 0xE := by
  obtain ⟨hn, e⟩ | ⟨hn, e⟩ | ⟨h0, hE, e⟩ := decodeGroup0_cases w
  · simp [e, hn]
  · simp [e, hn]
  · simp [e, h0, hE]

theorem decodeGroup8_eq_unassigned (w : Word) :
    decodeGroup8 w = .unassigned w ↔ 0x8 ≤ w.toNat % 16 ∧ w.toNat % 16 ≤ 0xD ∨ w.toNat % 16 = 0xF := by
  obtain ⟨hn, e⟩ | ⟨hn, e⟩ | ⟨hn, e⟩ | ⟨hn, e⟩ | ⟨hn, e⟩ | ⟨hn, e⟩ | ⟨hn, e⟩ | ⟨hn, e⟩ | ⟨hn, e⟩ |
    ⟨h0, h1, h2, h3, h4, h5, h6, h7, hE, e⟩ := decodeGroup8_cases w
  on_goal 10 =>
    have hlisted : 0x8 ≤ w.toNat % 16 ∧ w.toNat % 16 ≤ 0xD ∨ w.toNat % 16 = 0xF := by omega
    exact iff_of_true e hlisted
  all_goals simp [e, hn]

theorem decodeGroupE_eq_unassigned (w : Word) :
    decodeGroupE w = .unassigned w ↔ w.toNat % 256 ≠ 0x9E ∧ w.toNat % 256 ≠ 0xA1 := by
  obtain ⟨hn, e⟩ | ⟨hn, e⟩ | ⟨h9E, hA1, e⟩ := decodeGroupE_cases w
  · simp [e, hn]
  · simp [e, hn]
  · simp [e, h9E, hA1]

theorem decodeGroupF_eq_unassigned (w : Word) : decodeGroupF w = .unassigned w ↔
    w.toNat % 256 ∉ [0x07, 0x0A, 0x15, 0x18, 0x1E, 0x29, 0x33, 0x55, 0x65] := by
  obtain ⟨hn, e⟩ | ⟨hn, e⟩ | ⟨hn, e⟩ | ⟨hn, e⟩ | ⟨hn, e⟩ | ⟨hn, e⟩ | ⟨hn, e⟩ | ⟨hn, e⟩ | ⟨hn, e⟩ |
    ⟨h07, h0A, h15, h18, h1E, h29, h33, h55, h65, e⟩ := decodeGroupF_cases w
  on_goal 10 => simp [e, h07, h0A, h15, h18, h1E, h29, h33, h55, h65]
  all_goals simp [e, hn]

theorem decodeWord_eq_unassigned (w : Word) : decodeWord w = .unassigned w ↔ isUnassigned w = true := by
  rw [isUnassigned_iff]
  obtain ⟨hg, e⟩ | ⟨hg, e⟩ | ⟨hg, e⟩ | ⟨hg, e⟩ | ⟨hg, e⟩ | ⟨hg, e⟩ | ⟨hg, e⟩ | ⟨hg, e⟩ | ⟨hg, e⟩ | ⟨hg, e⟩ | ⟨hg, e⟩ |
    ⟨hg, e⟩ | ⟨hg, e⟩ | ⟨hg, e⟩ | ⟨hg, e⟩ | ⟨hg, e⟩ := decodeWord_cases w <;> rw [e]
  · simp [hg, decodeGroup0_eq_unassigned]
  · simp [hg, decodeGroup8_eq_unassigned]
  · simp [hg, decodeGroupE_eq_unassigned]
  · simp [hg, decodeGroupF_eq_unassigned]
  all_goals simp [hg]

/-! ### Byte lists (R95) -/

theorem decode_of_length_lt_two {bs : List Byte} (h : bs.length < 2) : decode bs = .error .truncated := by
  match bs, h with
  | [], _ => rfl
  | [_], _ => rfl

end Sys2Proof

namespace Sys2Proof.Machine

/-- Settles O8: the list in its three shapes, the encoder and the skip by definition. -/
theorem decoderConsumesTwoBytes : Obligations.DecoderConsumesTwoBytes :=
  ⟨fun _ => decode_of_length_lt_two, fun _ _ _ => ⟨_, rfl⟩, fun _ => rfl, fun s => BitVec.toNat_add s.pc 2⟩

/-! ### The parts of a step (R83, R92) -/

/-- The default row's execute part is the identity. -/
theorem exec_unassigned (w : Word) (s : State) : exec (.unassigned w) s = .next s := rfl

theorem finishStep_unchanged (s : State) : UnchangedExcept [.DT, .ST, .randIn, .draws] s (finishStep s) := by
  intro p hp
  cases p with
  | DT | ST | randIn | draws => simp at hp
  | V | stack | mem | video | keys => exact fun _ => rfl
  | I | pc | sp | opcode | fault | cfg => rfl

theorem step_of_unassigned {s : State} (h : isUnassigned (fetchWord s) = true) :
    step s = .next (finishStep (fetchAdvance s)) := by
  apply step_of_exec
  rw [fetchedInstr, (decodeWord_eq_unassigned _).2 h, exec_unassigned]

/-- Settles O7: the dispatch against R92's list group by group; the step of such a word is the fetch and the tick alone. -/
theorem unassignedWordsAreNoOps : Obligations.UnassignedWordsAreNoOps := by
  refine ⟨decodeWord_eq_unassigned, exec_unassigned, fun s h => ⟨_, step_of_unassigned h, rfl, BitVec.toNat_add s.pc 2, ?_, ?_, ?_⟩⟩
  · rw [finishStep_DT, tick_toNat, fetchAdvance_DT]
  · rw [finishStep_ST, tick_toNat, fetchAdvance_ST]
  · exact finishStep_unchanged _

/-- Settles O12: R83's fetch and advance are `fetchAdvance`, its tick is `finishStep`, and every execute part answers a state. -/
theorem stepRunsTheDecodedInstruction : Obligations.StepRunsTheDecodedInstruction := by
  rintro s _ _ _ _ rfl rfl rfl rfl
  obtain ⟨t, hexec, -⟩ := exec_keeps_opcode (fetchedInstr s) (fetchAdvance s)
  exact ⟨t, hexec, step_of_exec hexec⟩

end Sys2Proof.Machine
end

section
/-! PROOFS. The statements of 40_display.md: CLS (R120). -/

namespace Sys2Proof

theorem decodeWord_cls {w : Word} (hgroup : w.toNat / 4096 = 0x0) (hnibble : w.toNat % 16 = 0x0) : decodeWord w = .cls := by
  rw [decodeWord_group0 hgroup, decodeGroup0_cls hnibble]

end Sys2Proof

namespace Sys2Proof.Machine

/-- The frame of an update of the display alone. -/
theorem withVideo_unchanged (s : State) (v : Screen) : UnchangedExcept [.video] s { s with video := v } := by
  intro p hp
  cases p with
  | video => simp at hp
  | V | stack | mem | keys => exact fun _ => rfl
  | I | pc | sp | DT | ST | opcode | fault | cfg | randIn | draws => rfl

/-- Settles O48: the dispatch of group 0, then the execute part, which writes the blank screen to `video` alone. -/
theorem clsTurnsEveryPixelOff : Obligations.ClsTurnsEveryPixelOff := by
  refine ⟨fun _ => decodeWord_cls, fun s => ⟨{ s with video := Screen.blank }, rfl, ?_, ?_⟩⟩
  · exact pixel_blank
  · exact withVideo_unchanged s Screen.blank

end Sys2Proof.Machine
end

section
/-! PROOFS. The statements of 41_control_flow.md: the jumps (R141, R147) and the comparing skips (R143 to R146). -/

namespace Sys2Proof.Machine

/-! ### The frame of a write to `pc`, a skip being one (R148) -/

theorem setPc_unchanged (s : State) (w : Word) : UnchangedExcept [.pc] s (s.setPc w) := by
  intro p hp
  cases p with
  | pc => simp at hp
  | V | stack | mem | video | keys => exact fun _ => rfl
  | I | sp | DT | ST | opcode | fault | cfg | randIn | draws => rfl

theorem skipIf_eq_setPc (s : State) (b : Bool) : s.skipIf b = s.setPc (if b then s.pc + 2 else s.pc) := by
  cases b <;> rfl

theorem skipIf_unchanged (s : State) (b : Bool) : UnchangedExcept [.pc] s (s.skipIf b) := by
  rw [skipIf_eq_setPc]
  exact setPc_unchanged s _

/-! ### The values written to `pc`, as numbers -/

theorem zextAddr_toNat (nnn : Addr) : (zextAddr nnn).toNat = nnn.toNat :=
  BitVec.toNat_setWidth_of_le (by decide)

/-- The sum of a 12-bit address and a byte fits 16 bits, so it is not reduced. -/
theorem jumpOffset_toNat (s : State) (nnn : Addr) : (s.jumpOffset nnn).toNat = nnn.toNat + (s.reg 0).toNat := by
  have hfits : nnn.toNat + (s.reg 0).toNat < 2 ^ 16 := by omega
  rw [State.jumpOffset, BitVec.toNat_ofNat, Nat.mod_eq_of_lt hfits]

theorem skipIf_pc_toNat (s : State) (b : Bool) :
    (s.skipIf b).pc.toNat = if b then (s.pc.toNat + 2) % 65536 else s.pc.toNat := by
  cases b with
  | true => exact BitVec.toNat_add s.pc 2
  | false => rfl

/-! The two conditions of the comparing skips: a skip on equality, and a skip on inequality. -/

theorem skipIf_beq_pc_toNat (s : State) (a b : Byte) :
    (s.skipIf (a == b)).pc.toNat = if a = b then (s.pc.toNat + 2) % 65536 else s.pc.toNat := by
  simp only [skipIf_pc_toNat, beq_iff_eq]

theorem skipIf_bne_pc_toNat (s : State) (a b : Byte) :
    (s.skipIf (a != b)).pc.toNat = if a = b then s.pc.toNat else (s.pc.toNat + 2) % 65536 := by
  simp only [skipIf_pc_toNat, bne_iff_ne, ne_eq, ite_not]

/-! ### What the instructions do -/

theorem exec_jp (nnn : Addr) (s : State) : exec (.jp nnn) s = .next (s.setPc (zextAddr nnn)) := rfl

theorem exec_jpV0Nnn (nnn : Addr) (s : State) : exec (.jpV0Nnn nnn) s = .next (s.setPc (s.jumpOffset nnn)) := rfl

theorem exec_seVxNn (x : Reg) (nn : Byte) (s : State) :
    exec (.seVxNn x nn) s = .next (s.skipIf (s.reg x == nn)) := rfl

theorem exec_sneVxNn (x : Reg) (nn : Byte) (s : State) :
    exec (.sneVxNn x nn) s = .next (s.skipIf (s.reg x != nn)) := rfl

theorem exec_seVxVy (x y : Reg) (s : State) :
    exec (.seVxVy x y) s = .next (s.skipIf (s.reg x == s.reg y)) := rfl

theorem exec_sneVxVy (x y : Reg) (s : State) :
    exec (.sneVxVy x y) s = .next (s.skipIf (s.reg x != s.reg y)) := rfl

/-- Settles O27: the dispatch of group 1, then a write of the zero-extended address to `pc` alone. -/
theorem jpSetsPc : Obligations.JpSetsPc :=
  ⟨fun w hgroup => ⟨_, decodeWord_group1 hgroup, fieldNnn_toNat w⟩,
    fun nnn s => ⟨_, exec_jp nnn s, zextAddr_toNat nnn, setPc_unchanged s _⟩⟩

/-- Settles O28: the dispatch of group B, then a write to `pc` alone of a sum that fits 16 bits. -/
theorem jpV0AddsRegisterZero : Obligations.JpV0AddsRegisterZero :=
  ⟨fun w hgroup => ⟨_, decodeWord_groupB hgroup, fieldNnn_toNat w⟩,
    fun nnn s => ⟨_, exec_jpV0Nnn nnn s, jumpOffset_toNat s nnn, setPc_unchanged s _⟩⟩

/-- Settles O29: the dispatch of the four groups, then `skipIf` on equality or on inequality. -/
theorem comparingSkipsSkipTwoBytes : Obligations.ComparingSkipsSkipTwoBytes := by
  refine ⟨fun w => ⟨fun hgroup => ?_, fun hgroup => ?_, fun hgroup => ?_, fun hgroup => ?_⟩,
    fun s x y nn => ⟨?_, ?_, ?_, ?_⟩⟩
  · exact ⟨_, _, decodeWord_group3 hgroup, fieldX_val w, fieldNn_toNat w⟩
  · exact ⟨_, _, decodeWord_group4 hgroup, fieldX_val w, fieldNn_toNat w⟩
  · exact ⟨_, _, decodeWord_group5 hgroup, fieldX_val w, fieldY_val w⟩
  · exact ⟨_, _, decodeWord_group9 hgroup, fieldX_val w, fieldY_val w⟩
  · exact ⟨_, exec_seVxNn x nn s, skipIf_unchanged s _, skipIf_beq_pc_toNat s _ _⟩
  · exact ⟨_, exec_sneVxNn x nn s, skipIf_unchanged s _, skipIf_bne_pc_toNat s _ _⟩
  · exact ⟨_, exec_seVxVy x y s, skipIf_unchanged s _, skipIf_beq_pc_toNat s _ _⟩
  · exact ⟨_, exec_sneVxVy x y s, skipIf_unchanged s _, skipIf_bne_pc_toNat s _ _⟩

end Sys2Proof.Machine
end

section
/-! PROOFS. The statements of 42_register_immediate.md: LD Vx, nn (R170), ADD Vx, nn (R171) and LD I, nnn (R172). -/

namespace Sys2Proof.Machine

/-! ### The frames of a register write and of a write to `I` -/

theorem setReg_unchanged (s : State) (x : Reg) (b : Byte) : UnchangedExcept [.V] s (s.setReg x b) := by
  intro p hp
  cases p with
  | V => simp at hp
  | stack | mem | video | keys => exact fun _ => rfl
  | I | pc | sp | DT | ST | opcode | fault | cfg | randIn | draws => rfl

theorem setI_unchanged (s : State) (w : Word) : UnchangedExcept [.I] s (s.setI w) := by
  intro p hp
  cases p with
  | I => simp at hp
  | V | stack | mem | video | keys => exact fun _ => rfl
  | pc | sp | DT | ST | opcode | fault | cfg | randIn | draws => rfl

/-! ### What the instructions do -/

theorem exec_ldVxNn (x : Reg) (nn : Byte) (s : State) : exec (.ldVxNn x nn) s = .next (s.setReg x nn) := rfl

theorem exec_addVxNn (x : Reg) (nn : Byte) (s : State) :
    exec (.addVxNn x nn) s = .next (s.setReg x (s.reg x + nn)) := rfl

theorem exec_ldINnn (nnn : Addr) (s : State) : exec (.ldINnn nnn) s = .next (s.setI (zextAddr nnn)) := rfl

/-- The sum a register reads back is reduced mod 256, whatever the register (R171). -/
theorem reg_setReg_add_toNat (s : State) (x : Reg) (a b : Byte) :
    ((s.setReg x (a + b)).reg x).toNat = (a.toNat + b.toNat) % 256 := by
  rw [reg_setReg_self]
  exact BitVec.toNat_add a b

/-- Settles O33: the dispatch of groups 6 and 7, then a write to one register alone. -/
theorem immediateLoadAndAddWriteOneRegister : Obligations.ImmediateLoadAndAddWriteOneRegister := by
  refine ⟨fun w => ⟨fun hgroup => ?_, fun hgroup => ?_⟩, fun s x nn => ⟨?_, ?_⟩⟩
  · exact ⟨_, _, decodeWord_group6 hgroup, fieldX_val w, fieldNn_toNat w⟩
  · exact ⟨_, _, decodeWord_group7 hgroup, fieldX_val w, fieldNn_toNat w⟩
  · exact ⟨_, exec_ldVxNn x nn s, reg_setReg_self s x nn, fun _ => reg_setReg_ne s nn, setReg_unchanged s x nn⟩
  · exact ⟨_, exec_addVxNn x nn s, reg_setReg_add_toNat s x _ nn, fun _ => reg_setReg_ne s _, setReg_unchanged s x _⟩

/-- Settles O34: the dispatch of group A, then a write of the zero-extended address to `I` alone. -/
theorem ldIWritesTheIndex : Obligations.LdIWritesTheIndex :=
  ⟨fun w hgroup => ⟨_, decodeWord_groupA hgroup, fieldNnn_toNat w⟩,
    fun nnn s => ⟨_, exec_ldINnn nnn s, zextAddr_toNat nnn, setI_unchanged s _⟩⟩

end Sys2Proof.Machine
end

section
/-! PROOFS. The statements of 43_alu.md on the copy and the bitwise operations: LD, OR, AND, XOR of two registers (R190 to R193). -/

namespace Sys2Proof.Machine

/-! ### What the instructions do -/

theorem exec_ldVxVy (x y : Reg) (s : State) : exec (.ldVxVy x y) s = .next (s.setReg x (s.reg y)) := rfl

theorem exec_orVxVy (x y : Reg) (s : State) :
    exec (.orVxVy x y) s = .next (s.setReg x (s.reg x ||| s.reg y)) := rfl

theorem exec_andVxVy (x y : Reg) (s : State) :
    exec (.andVxVy x y) s = .next (s.setReg x (s.reg x &&& s.reg y)) := rfl

theorem exec_xorVxVy (x y : Reg) (s : State) :
    exec (.xorVxVy x y) s = .next (s.setReg x (s.reg x ^^^ s.reg y)) := rfl

/-- An instruction that answers a register write changes that register alone, so VF only when it is the destination (R201). -/
theorem exec_writes_one_register {i : Instr} {s : State} {x : Reg} {b : Byte} (hexec : exec i s = .next (s.setReg x b)) :
    ∃ t, exec i s = .next t ∧ t.reg x = b ∧ (∀ r, r ≠ x → t.reg r = s.reg r) ∧ UnchangedExcept [.V] s t :=
  ⟨_, hexec, reg_setReg_self s x b, fun _ => reg_setReg_ne s b, setReg_unchanged s x b⟩

/-- Settles O36: the dispatch of group 8 on the low nibble, then a write to one register alone. -/
theorem copyAndLogicWriteOneRegister : Obligations.CopyAndLogicWriteOneRegister := by
  refine ⟨fun w hgroup x y hx hy => ?_, fun s x y => ⟨?_, ?_, ?_, ?_⟩⟩
  · rw [decodeWord_group8 hgroup, ← fieldX_eq hx, ← fieldY_eq hy]
    exact ⟨decodeGroup8_ldVxVy, decodeGroup8_orVxVy, decodeGroup8_andVxVy, decodeGroup8_xorVxVy⟩
  · exact exec_writes_one_register (exec_ldVxVy x y s)
  · exact exec_writes_one_register (exec_orVxVy x y s)
  · exact exec_writes_one_register (exec_andVxVy x y s)
  · exact exec_writes_one_register (exec_xorVxVy x y s)

end Sys2Proof.Machine
end

section
/-! PROOFS. The statements of 44_keys_timers.md: LD Vx, DT (R223), LD DT, Vx (R225) and LD ST, Vx (R226). -/

namespace Sys2Proof.Machine

/-! ### The frames of a write to a timer -/

theorem setDT_unchanged (s : State) (b : Byte) : UnchangedExcept [.DT] s (s.setDT b) := by
  intro p hp
  cases p with
  | DT => simp at hp
  | V | stack | mem | video | keys => exact fun _ => rfl
  | I | pc | sp | ST | opcode | fault | cfg | randIn | draws => rfl

theorem setST_unchanged (s : State) (b : Byte) : UnchangedExcept [.ST] s (s.setST b) := by
  intro p hp
  cases p with
  | ST => simp at hp
  | V | stack | mem | video | keys => exact fun _ => rfl
  | I | pc | sp | DT | opcode | fault | cfg | randIn | draws => rfl

/-! ### What the instructions do -/

theorem exec_ldVxDt (x : Reg) (s : State) : exec (.ldVxDt x) s = .next (s.setReg x s.DT) := rfl

theorem exec_ldDtVx (x : Reg) (s : State) : exec (.ldDtVx x) s = .next (s.setDT (s.reg x)) := rfl

theorem exec_ldStVx (x : Reg) (s : State) : exec (.ldStVx x) s = .next (s.setST (s.reg x)) := rfl

/-! ### The registers through a step's fetch and tick -/

theorem reg_fetchAdvance (s : State) (r : Reg) : (fetchAdvance s).reg r = s.reg r :=
  reg_congr (fetchAdvance_V s) r

theorem reg_finishStep (s : State) (r : Reg) : (finishStep s).reg r = s.reg r :=
  reg_congr rfl r

/-! ### The whole step: the execute part sees the timers from before the tick (R83) -/

theorem step_ldVxDt {s : State} {x : Reg} (hfetch : fetchedInstr s = .ldVxDt x) :
    step s = .next (finishStep ((fetchAdvance s).setReg x s.DT)) := by
  apply step_of_exec
  rw [hfetch, exec_ldVxDt, fetchAdvance_DT]

theorem step_ldDtVx {s : State} {x : Reg} (hfetch : fetchedInstr s = .ldDtVx x) :
    step s = .next (finishStep ((fetchAdvance s).setDT (s.reg x))) := by
  apply step_of_exec
  rw [hfetch, exec_ldDtVx, reg_fetchAdvance]

theorem step_ldStVx {s : State} {x : Reg} (hfetch : fetchedInstr s = .ldStVx x) :
    step s = .next (finishStep ((fetchAdvance s).setST (s.reg x))) := by
  apply step_of_exec
  rw [hfetch, exec_ldStVx, reg_fetchAdvance]

/-- Settles O41: the dispatch of group F on the low byte, each execute part as one write, then the same write under the step's
tick. -/
theorem timerInstructionsMoveTheTimers : Obligations.TimerInstructionsMoveTheTimers := by
  refine ⟨fun w hgroup x hx => ?_, fun s x => ⟨?_, ?_, ?_⟩, fun s x => ⟨fun hfetch => ?_, fun hfetch => ?_, fun hfetch => ?_⟩⟩
  · rw [decodeWord_groupF hgroup, ← fieldX_eq hx]
    exact ⟨decodeGroupF_ldVxDt, decodeGroupF_ldDtVx, decodeGroupF_ldStVx⟩
  · exact exec_writes_one_register (exec_ldVxDt x s)
  · exact ⟨_, exec_ldDtVx x s, setDT_DT s _, setDT_unchanged s _⟩
  · exact ⟨_, exec_ldStVx x s, setST_ST s _, setST_unchanged s _⟩
  · refine ⟨_, step_ldVxDt hfetch, ?_, ?_⟩
    · rw [reg_finishStep, reg_setReg_self]
    · rw [finishStep_DT, tick_toNat, setReg_DT, fetchAdvance_DT]
  · refine ⟨_, step_ldDtVx hfetch, ?_⟩
    rw [finishStep_DT, tick_toNat, setDT_DT]
  · refine ⟨_, step_ldStVx hfetch, ?_⟩
    rw [finishStep_ST, tick_toNat, setST_ST]

end Sys2Proof.Machine
end

section
/-! PROOFS. The statements of 45_index_memory.md: ADD I, Vx (R250) and LD F, Vx (R251). -/

namespace Sys2Proof.Machine

/-! ### The values written to `I`, as numbers -/

theorem indexPlus_toNat (s : State) (n : Nat) : (s.indexPlus n).toNat = (s.I.toNat + n) % 65536 :=
  BitVec.toNat_ofNat _ 16

/-- The last glyph address, for a byte of 0xFF, fits 16 bits, so none is reduced. -/
theorem glyphAddr_toNat (b : Byte) : (glyphAddr b).toNat = 0x050 + b.toNat * 5 := by
  have hfits : 0x050 + b.toNat * 5 < 2 ^ 16 := by omega
  rw [glyphAddr, BitVec.toNat_ofNat, Nat.mod_eq_of_lt hfits]

/-! ### What the instructions do -/

theorem exec_addIVx (x : Reg) (s : State) : exec (.addIVx x) s = .next (s.setI (s.indexPlus (s.reg x).toNat)) := rfl

theorem exec_ldFVx (x : Reg) (s : State) : exec (.ldFVx x) s = .next (s.setI (glyphAddr (s.reg x))) := rfl

/-- Settles O43: the dispatch of group F on the low byte, then a write to `I` alone. -/
theorem indexInstructionsWriteI : Obligations.IndexInstructionsWriteI := by
  refine ⟨fun w hgroup x hx => ?_, fun s x => ⟨?_, ?_⟩⟩
  · rw [decodeWord_groupF hgroup, ← fieldX_eq hx]
    exact ⟨decodeGroupF_addIVx, decodeGroupF_ldFVx⟩
  · exact ⟨_, exec_addIVx x s, indexPlus_toNat s _, setI_unchanged s _⟩
  · exact ⟨_, exec_ldFVx x s, glyphAddr_toNat _, setI_unchanged s _⟩

end Sys2Proof.Machine
end

section
/-! PROOFS. The statements of 60_exceptions.md: the timers tick once per step (R288). -/

namespace Sys2Proof.Machine

/-! ### The timers through the execute part

Only FX15 and FX18 write a timer there (R225, R226). -/

theorem execRet_keeps_timers (s : State) : ∃ t, execRet s = .next t ∧ t.DT = s.DT ∧ t.ST = s.ST := by
  by_cases h : s.sp.val = 0
  · exact ⟨s.raise .stackUnderflow, by simp [execRet, pop?_empty h], rfl, rfl⟩
  · simp [execRet, pop?_some (Nat.pos_of_ne_zero h)]

theorem execCall_keeps_timers (nnn : Addr) (s : State) :
    ∃ t, execCall nnn s = .next t ∧ t.DT = s.DT ∧ t.ST = s.ST := by
  by_cases h : s.sp.val = 16
  · exact ⟨s.raise .stackOverflow, by simp [execCall, push?_full s.pc h], rfl, rfl⟩
  · have hroom : s.sp.val < 16 := by omega
    simp [execCall, push?_room s.pc hroom]

@[simp] theorem takeKey_DT (x : Reg) (k : Fin 16) (s : State) : (takeKey x k s).DT = s.DT := by
  unfold takeKey
  split <;> rfl

@[simp] theorem takeKey_ST (x : Reg) (k : Fin 16) (s : State) : (takeKey x k s).ST = s.ST := by
  unfold takeKey
  split <;> rfl

theorem execLdVxK_keeps_timers (x : Reg) (s : State) :
    ∃ t, execLdVxK x s = .next t ∧ t.DT = s.DT ∧ t.ST = s.ST := by
  cases h : s.firstKeyDown? with
  | none => exact ⟨s.setPc (s.pc - 2), by simp [execLdVxK, h], rfl, rfl⟩
  | some k => exact ⟨takeKey x k s, by simp [execLdVxK, h], takeKey_DT x k s, takeKey_ST x k s⟩

/-- The execute part of every instruction but FX15 and FX18 leaves both timers to the tick. -/
theorem exec_keeps_timers {i : Instr} (hDT : ∀ x, i ≠ .ldDtVx x) (hST : ∀ x, i ≠ .ldStVx x) (s : State) :
    ∃ t, exec i s = .next t ∧ t.DT = s.DT ∧ t.ST = s.ST := by
  cases i with
  | ldDtVx x => exact absurd rfl (hDT x)
  | ldStVx x => exact absurd rfl (hST x)
  | ret => exact execRet_keeps_timers s
  | call nnn => exact execCall_keeps_timers nnn s
  | ldVxK x => exact execLdVxK_keeps_timers x s
  | seVxNn | sneVxNn | seVxVy | sneVxVy => exact ⟨_, rfl, skipIf_DT s _, skipIf_ST s _⟩
  | skp | sknp => exact ⟨_, rfl, by rw [skipIf_DT, keyRead_DT], by rw [skipIf_ST, keyRead_ST]⟩
  | drw => exact ⟨_, rfl, by rw [setFlag_DT, drawSprite_DT], by rw [setFlag_ST, drawSprite_ST]⟩
  | ldBVx => exact ⟨_, rfl, writeBytes_DT _ _ s, writeBytes_ST _ _ s⟩
  | ldMemVx => exact ⟨_, rfl, by rw [setI_DT, storeRegs_DT], by rw [setI_ST, storeRegs_ST]⟩
  | ldVxMem => exact ⟨_, rfl, by rw [setI_DT, loadRegs_DT], by rw [setI_ST, loadRegs_ST]⟩
  | _ => exact ⟨_, rfl, rfl, rfl⟩

/-! ### The timers through the whole step -/

/-- The tick of a step takes 1 from each timer the execute part leaves, and stops at 0. -/
theorem finishStep_timers_toNat (t : State) :
    (finishStep t).DT.toNat = t.DT.toNat - 1 ∧ (finishStep t).ST.toNat = t.ST.toNat - 1 :=
  ⟨tick_toNat t.DT, tick_toNat t.ST⟩

theorem step_ticks_timers {s : State} (hDT : ∀ x, fetchedInstr s ≠ .ldDtVx x) (hST : ∀ x, fetchedInstr s ≠ .ldStVx x) :
    ∃ t, step s = .next t ∧ t.DT.toNat = s.DT.toNat - 1 ∧ t.ST.toNat = s.ST.toNat - 1 := by
  obtain ⟨t, hexec, htDT, htST⟩ := exec_keeps_timers hDT hST (fetchAdvance s)
  rw [fetchAdvance_DT] at htDT
  rw [fetchAdvance_ST] at htST
  rw [← htDT, ← htST]
  exact ⟨finishStep t, step_of_exec hexec, finishStep_timers_toNat t⟩

/-- FX15 sets DT before the tick, and ST ticks from its value before the step. -/
theorem step_ldDtVx_timers {s : State} {x : Reg} (hfetch : fetchedInstr s = .ldDtVx x) :
    ∃ t, step s = .next t ∧ t.DT.toNat = (s.reg x).toNat - 1 ∧ t.ST.toNat = s.ST.toNat - 1 := by
  refine ⟨_, step_ldDtVx hfetch, ?_⟩
  simpa only [setDT_DT, setDT_ST, fetchAdvance_ST] using finishStep_timers_toNat ((fetchAdvance s).setDT (s.reg x))

/-- FX18 sets ST before the tick, and DT ticks from its value before the step. -/
theorem step_ldStVx_timers {s : State} {x : Reg} (hfetch : fetchedInstr s = .ldStVx x) :
    ∃ t, step s = .next t ∧ t.DT.toNat = s.DT.toNat - 1 ∧ t.ST.toNat = (s.reg x).toNat - 1 := by
  refine ⟨_, step_ldStVx hfetch, ?_⟩
  simpa only [setST_DT, setST_ST, fetchAdvance_DT] using finishStep_timers_toNat ((fetchAdvance s).setST (s.reg x))

/-- Settles O16: the two instructions that set a timer, and every other one, which leaves both to the tick. -/
theorem timersTickOncePerStep : Obligations.TimersTickOncePerStep := by
  intro s
  cases hfetch : fetchedInstr s with
  | ldDtVx x => exact step_ldDtVx_timers hfetch
  | ldStVx x => exact step_ldStVx_timers hfetch
  | _ => exact step_ticks_timers (by simp [hfetch]) (by simp [hfetch])

end Sys2Proof.Machine
end

section
/-! PROOFS. The statements of 70_reset_and_hazards.md: one step per instruction (R329). -/

namespace Sys2Proof.Machine

/-- Execute answers a next state for every instruction: a full or empty stack, an access past memory, a key index past 0xF and
FX0A's wait are outcomes inside the next state. The split over the instructions is that of `exec_keeps_opcode`. -/
theorem exec_completes (i : Instr) (s : State) : ∃ t, exec i s = .next t :=
  (exec_keeps_opcode i s).imp fun _ h => h.1

/-- Settles O15: a step completes because the execute part of the instruction it fetched does. -/
theorem everyStepCompletes : Obligations.EveryStepCompletes := by
  refine ⟨exec_completes, fun s => ?_⟩
  obtain ⟨t, hexec⟩ := exec_completes (fetchedInstr s) (fetchAdvance s)
  exact ⟨finishStep t, step_of_exec hexec⟩

end Sys2Proof.Machine
end

section
/-! PROOFS. The statements of 30_encoding.md on the operands: the fields of a word (R81), decoding the encoder's words (R93), and
canonical words (R87, R91, R96). -/

namespace Sys2Proof

/-! ### The fields of a packed word are the parts it was packed from (R81) -/

@[simp] theorem groupOf_packNnn (g : BitVec 4) (nnn : Addr) : groupOf (packNnn g nnn) = g := by
  apply BitVec.eq_of_toNat_eq
  rw [groupOf_toNat, packNnn_toNat]
  omega

@[simp] theorem fieldNnn_packNnn (g : BitVec 4) (nnn : Addr) : fieldNnn (packNnn g nnn) = nnn := by
  apply BitVec.eq_of_toNat_eq
  rw [fieldNnn_toNat, packNnn_toNat]
  omega

@[simp] theorem groupOf_packXNn (g : BitVec 4) (x : Reg) (nn : Byte) : groupOf (packXNn g x nn) = g := by
  apply BitVec.eq_of_toNat_eq
  rw [groupOf_toNat, packXNn_toNat]
  omega

@[simp] theorem fieldX_packXNn (g : BitVec 4) (x : Reg) (nn : Byte) : fieldX (packXNn g x nn) = x := by
  apply fieldX_eq
  rw [packXNn_toNat]
  omega

@[simp] theorem fieldNn_packXNn (g : BitVec 4) (x : Reg) (nn : Byte) : fieldNn (packXNn g x nn) = nn := by
  apply BitVec.eq_of_toNat_eq
  rw [fieldNn_toNat, packXNn_toNat]
  omega

@[simp] theorem groupOf_packXYN (g : BitVec 4) (x y : Reg) (n : BitVec 4) : groupOf (packXYN g x y n) = g := by
  apply BitVec.eq_of_toNat_eq
  rw [groupOf_toNat, packXYN_toNat]
  omega

@[simp] theorem fieldX_packXYN (g : BitVec 4) (x y : Reg) (n : BitVec 4) : fieldX (packXYN g x y n) = x := by
  apply fieldX_eq
  rw [packXYN_toNat]
  omega

@[simp] theorem fieldY_packXYN (g : BitVec 4) (x y : Reg) (n : BitVec 4) : fieldY (packXYN g x y n) = y := by
  apply fieldY_eq
  rw [packXYN_toNat]
  omega

@[simp] theorem lowNibble_packXYN (g : BitVec 4) (x y : Reg) (n : BitVec 4) : lowNibble (packXYN g x y n) = n := by
  apply BitVec.eq_of_toNat_eq
  rw [lowNibble_toNat, packXYN_toNat]
  omega

@[simp] theorem fieldN_packXYN (g : BitVec 4) (x y : Reg) (n : Fin 16) : fieldN (packXYN g x y (regBits n)) = n := by
  rw [fieldN, lowNibble_packXYN]
  rfl

/-! ### Decoding the canonical word -/

/-- The decoder undoes the encoder: the dispatch reads the group, nibble or byte the encoder packed, then its operands. -/
theorem decodeWord_encodeWord {i : Instr} (h : i.wf = true) : decodeWord (encodeWord i) = i := by
  cases i with
  | unassigned w => exact (decodeWord_eq_unassigned w).2 h
  | cls | ret => rfl
  | ldVxVy | orVxVy | andVxVy | xorVxVy | addVxVy | subVxVy | shrVxVy | subnVxVy | shlVxVy =>
    simp [encodeWord, decodeWord, decodeGroup8]
  | skp | sknp => simp [encodeWord, decodeWord, decodeGroupE]
  | ldVxDt | ldVxK | ldDtVx | ldStVx | addIVx | ldFVx | ldBVx | ldMemVx | ldVxMem =>
    simp [encodeWord, decodeWord, decodeGroupF]
  | _ => simp [encodeWord, decodeWord]

/-- Settles O9: the two bytes of the encoding joined again are the canonical word, which decodes to the instruction. -/
theorem decodeOfEncodeIsTheInstruction : Obligations.DecodeOfEncodeIsTheInstruction := by
  intro i rest h
  show Except.ok (decodeWord (wordOf (highByte (encodeWord i)) (lowByteOf (encodeWord i))), rest) = _
  rw [wordOf_high_low, decodeWord_encodeWord h]

/-- Settles O6: the dispatch level by level; every operand is a field of the word by the field's lemma, and the no-op outcome's
word is `w` by reflexivity. -/
theorem decodedOperandsAreTheFields : Obligations.DecodedOperandsAreTheFields := by
  intro w
  obtain ⟨-, e⟩ | ⟨-, e⟩ | ⟨-, e⟩ | ⟨-, e⟩ | ⟨-, e⟩ | ⟨-, e⟩ | ⟨-, e⟩ | ⟨-, e⟩ | ⟨-, e⟩ | ⟨-, e⟩ | ⟨-, e⟩ |
    ⟨-, e⟩ | ⟨-, e⟩ | ⟨-, e⟩ | ⟨-, e⟩ | ⟨-, e⟩ := decodeWord_cases w <;> rw [e]
  · obtain ⟨-, e⟩ | ⟨-, e⟩ | ⟨-, -, e⟩ := decodeGroup0_cases w <;> rw [e]
    all_goals trivial
  · obtain ⟨-, e⟩ | ⟨-, e⟩ | ⟨-, e⟩ | ⟨-, e⟩ | ⟨-, e⟩ | ⟨-, e⟩ | ⟨-, e⟩ | ⟨-, e⟩ | ⟨-, e⟩ |
      ⟨-, -, -, -, -, -, -, -, -, e⟩ := decodeGroup8_cases w <;> rw [e]
    all_goals exact ⟨fieldX_val w, fieldY_val w⟩
  · obtain ⟨-, e⟩ | ⟨-, e⟩ | ⟨-, -, e⟩ := decodeGroupE_cases w <;> rw [e]
    all_goals exact fieldX_val w
  · obtain ⟨-, e⟩ | ⟨-, e⟩ | ⟨-, e⟩ | ⟨-, e⟩ | ⟨-, e⟩ | ⟨-, e⟩ | ⟨-, e⟩ | ⟨-, e⟩ | ⟨-, e⟩ |
      ⟨-, -, -, -, -, -, -, -, -, e⟩ := decodeGroupF_cases w <;> rw [e]
    all_goals exact fieldX_val w
  · exact fieldNnn_toNat w
  · exact fieldNnn_toNat w
  · exact ⟨fieldX_val w, fieldNn_toNat w⟩
  · exact ⟨fieldX_val w, fieldNn_toNat w⟩
  · exact ⟨fieldX_val w, fieldY_val w⟩
  · exact ⟨fieldX_val w, fieldNn_toNat w⟩
  · exact ⟨fieldX_val w, fieldNn_toNat w⟩
  · exact ⟨fieldX_val w, fieldY_val w⟩
  · exact fieldNnn_toNat w
  · exact fieldNnn_toNat w
  · exact ⟨fieldX_val w, fieldNn_toNat w⟩
  · exact ⟨fieldX_val w, fieldY_val w, fieldN_val w⟩

/-- The default row's instruction carries the word it was decoded from. -/
theorem eq_of_decodeWord_unassigned {w v : Word} (h : decodeWord w = .unassigned v) : v = w := by
  have hfields := decodedOperandsAreTheFields w
  rwa [h] at hfields

/-- Only the no-op outcome has a check to meet, and its word is one that R92 lists. -/
theorem decodeWord_wf (w : Word) : (decodeWord w).wf = true := by
  cases h : decodeWord w with
  | unassigned v =>
    obtain rfl := eq_of_decodeWord_unassigned h
    exact (decodeWord_eq_unassigned v).1 h
  | _ => rfl

/-- Settles O10: decoding gives well-formed instructions, and for those the decoder undoes the encoder. -/
theorem canonicalWordDecodesTheSame : Obligations.CanonicalWordDecodesTheSame :=
  fun w => ⟨decodeWord_wf w, decodeWord_encodeWord (decodeWord_wf w)⟩

/-- Settles O11: eleven closed words, decoded by evaluation. -/
theorem writtenOutWordsDecode : Obligations.WrittenOutWordsDecode := by
  unfold Obligations.WrittenOutWordsDecode
  decide

end Sys2Proof
end

section
/-! SUPPORT. What each instruction with a branch, a loop or a checked access answers, as one update of the state. -/

namespace Sys2Proof.Machine

/-- An instruction answers one state: what holds of some answer holds of the answer known. -/
theorem holds_of_exec {i : Instr} {s t : State} {P : State → Prop} (h : ∃ u, exec i s = .next u ∧ P u)
    (hexec : exec i s = .next t) : P t := by
  obtain ⟨u, hexec', hP⟩ := h
  obtain rfl : t = u := by simpa [hexec] using hexec'
  exact hP

/-! ### CALL and RET (41_control_flow.md R140, R142) -/

theorem exec_call_room {s : State} (nnn : Addr) (h : s.sp.val < 16) : exec (.call nnn) s =
    .next { s with stack := s.stack.set s.sp.val s.pc, sp := ⟨s.sp.val + 1, by omega⟩, pc := zextAddr nnn } := by
  show execCall nnn s = _
  rw [execCall, push?_room s.pc h]
  rfl

theorem exec_call_full {s : State} (nnn : Addr) (h : s.sp.val = 16) :
    exec (.call nnn) s = .next (s.raise .stackOverflow) := by
  show execCall nnn s = _
  rw [execCall, push?_full s.pc h]

theorem exec_ret_some {s : State} (h : 0 < s.sp.val) : exec .ret s =
    .next { s with sp := ⟨s.sp.val - 1, by omega⟩, pc := s.stack[s.sp.val - 1]'(by omega) } := by
  show execRet s = _
  rw [execRet, pop?_some h]
  rfl

theorem exec_ret_empty {s : State} (h : s.sp.val = 0) : exec .ret s = .next (s.raise .stackUnderflow) := by
  show execRet s = _
  rw [execRet, pop?_empty h]

/-! ### Keys (44_keys_timers.md R220, R221, R224) -/

theorem exec_ldVxK_some {s : State} (x : Reg) {k : Fin 16} (h : s.firstKeyDown? = some k) :
    exec (.ldVxK x) s = .next (takeKey x k s) := by
  show execLdVxK x s = _
  rw [execLdVxK, h]

theorem exec_ldVxK_none {s : State} (x : Reg) (h : s.firstKeyDown? = none) :
    exec (.ldVxK x) s = .next (s.setPc (s.pc - 2)) := by
  show execLdVxK x s = _
  rw [execLdVxK, h]

theorem exec_skp (x : Reg) (s : State) :
    exec (.skp x) s = .next ((keyRead (s.reg x) s).2.skipIf (keyRead (s.reg x) s).1) := rfl

theorem exec_sknp (x : Reg) (s : State) :
    exec (.sknp x) s = .next ((keyRead (s.reg x) s).2.skipIf (!(keyRead (s.reg x) s).1)) := rfl

/-! ### Memory and display (45_index_memory.md R252 to R254, 40_display.md R121) -/

/-- The three writes of FX33. -/
theorem exec_ldBVx (x : Reg) (s : State) : exec (.ldBVx x) s =
    .next (memWrite (s.effAddr 0 + 1 + 1) (BitVec.ofNat 8 ((s.reg x).toNat % 10))
      (memWrite (s.effAddr 0 + 1) (BitVec.ofNat 8 ((s.reg x).toNat / 10 % 10))
        (memWrite (s.effAddr 0) (BitVec.ofNat 8 ((s.reg x).toNat / 100)) s))) := rfl

theorem exec_ldMemVx (x : Reg) (s : State) : exec (.ldMemVx x) s =
    .next ((storeRegs (s.effAddr 0) (regsThrough x) s).setI (s.indexPlus (x.val + 1))) := rfl

theorem exec_ldVxMem (x : Reg) (s : State) : exec (.ldVxMem x) s =
    .next ((loadRegs (s.effAddr 0) (regsThrough x) s).setI (s.indexPlus (x.val + 1))) := rfl

theorem exec_drw (x y : Reg) (n : Fin 16) (s : State) : exec (.drw x y n) s =
    .next ((drawSprite s.I.toNat (s.originX x) (s.originY y) n.val s).1.setFlag
      (drawSprite s.I.toNat (s.originX x) (s.originY y) n.val s).2) := rfl

end Sys2Proof.Machine
end

section
/-! PROOFS. The statements of 60_exceptions.md and 10_state.md on `fault` and on the invariant: when a cause is recorded (R280,
R281), that its bit stays (R33), and what every step keeps (R39). -/

namespace Sys2Proof.Machine

/-! ### Recording a cause under a condition

Every operation of the machine that can fault records one cause, under a condition on the state before it. -/

/-- From `s` to `t` the cause `c` is recorded exactly under `P`, and no other cause is. -/
def Records (c : FaultCause) (P : Prop) (s t : State) : Prop :=
  (P → t.fault = s.fault ||| 1#8 <<< c.code) ∧ (¬P → t.fault = s.fault)

theorem Records.of_iff {c : FaultCause} {P Q : Prop} {s t : State} (h : Records c P s t) (hPQ : P ↔ Q) : Records c Q s t := by
  rwa [← propext hPQ]

theorem records_of_fault_eq {c : FaultCause} {P : Prop} {s t : State} (hP : ¬P) (h : t.fault = s.fault) : Records c P s t :=
  ⟨fun hp => absurd hp hP, fun _ => h⟩

theorem records_raise {c : FaultCause} {P : Prop} {s : State} (hP : P) : Records c P s (s.raise c) :=
  ⟨fun _ => rfl, fun hn => absurd hP hn⟩

/-- Only `fault` of the last state counts. -/
theorem Records.congr_right {c : FaultCause} {P : Prop} {s t u : State} (h : Records c P s t) (hu : u.fault = t.fault) :
    Records c P s u :=
  ⟨fun hp => hu.trans (h.1 hp), fun hn => hu.trans (h.2 hn)⟩

/-- Recording a cause twice is recording it once: the bit is sticky. -/
theorem Records.trans {c : FaultCause} {P Q : Prop} {s t u : State} (hst : Records c P s t) (htu : Records c Q t u) :
    Records c (P ∨ Q) s u := by
  by_cases hp : P <;> by_cases hq : Q
  · exact ⟨fun _ => by rw [htu.1 hq, hst.1 hp, BitVec.or_assoc, BitVec.or_self], fun hn => absurd (.inl hp) hn⟩
  · exact ⟨fun _ => by rw [htu.2 hq, hst.1 hp], fun hn => absurd (.inl hp) hn⟩
  · exact ⟨fun _ => by rw [htu.1 hq, hst.2 hp], fun hn => absurd (.inr hq) hn⟩
  · exact records_of_fault_eq (by tauto) (by rw [htu.2 hq, hst.2 hp])

/-- A loop records the cause exactly when one of its rounds does. -/
theorem records_foldl {α β : Type} {c : FaultCause} {P : α → Prop} {get : β → State} {f : β → α → β}
    (hround : ∀ b a, Records c (P a) (get b) (get (f b a))) (as : List α) (b : β) :
    Records c (∃ a ∈ as, P a) (get b) (get (as.foldl f b)) := by
  induction as generalizing b with
  | nil => exact records_of_fault_eq (by simp) rfl
  | cons a as ih =>
    rw [List.foldl_cons]
    exact ((hround b a).trans (ih (f b a))).of_iff (by simp)

/-- `fault` after a recording, as a choice on the condition under which nothing is recorded. -/
theorem Records.fault_eq_ite {c : FaultCause} {P Q : Prop} [Decidable Q] {s t : State} (h : Records c P s t)
    (hPQ : P ↔ ¬Q) : t.fault = if Q then s.fault else s.fault ||| 1#8 <<< c.code := by
  split
  next hq => exact h.2 fun hp => hPQ.1 hp hq
  next hq => exact h.1 (hPQ.2 hq)

/-! ### The bits of `fault` after a recording -/

/-- Each cause has a bit of its own. -/
theorem code_bit (c d : FaultCause) : (1#8 <<< c.code).getLsbD d.code = decide (d = c) := by
  cases c <;> cases d <;> decide

/-- No cause has a bit above 5 (R33). -/
theorem code_and_top (c : FaultCause) : (1#8 <<< c.code) &&& 0xC0#8 = 0#8 := by
  cases c <;> decide

theorem Records.bit_iff {c : FaultCause} {P : Prop} {s t : State} (h : Records c P s t) (d : FaultCause) :
    t.fault.getLsbD d.code = true ↔ s.fault.getLsbD d.code = true ∨ (P ∧ d = c) := by
  by_cases hp : P
  · rw [h.1 hp, BitVec.getLsbD_or, code_bit]
    simp [hp]
  · rw [h.2 hp]
    simp [hp]

theorem Records.bit_sticky {c : FaultCause} {P : Prop} {s t : State} (h : Records c P s t) {b : Nat}
    (hb : s.fault.getLsbD b = true) : t.fault.getLsbD b = true := by
  by_cases hp : P
  · rw [h.1 hp, BitVec.getLsbD_or, hb, Bool.true_or]
  · rwa [h.2 hp]

theorem Records.top_clear {c : FaultCause} {P : Prop} {s t : State} (h : Records c P s t)
    (hs : s.fault &&& 0xC0#8 = 0#8) : t.fault &&& 0xC0#8 = 0#8 := by
  by_cases hp : P
  · have hdistrib : (s.fault ||| 1#8 <<< c.code) &&& 0xC0#8 = (s.fault &&& 0xC0#8) ||| (1#8 <<< c.code &&& 0xC0#8) := by
      ext i hi
      simp [Bool.and_or_distrib_right]
    rw [h.1 hp, hdistrib, hs, code_and_top, BitVec.or_self]
  · rwa [h.2 hp]

/-! ### What each operation records (20_memory.md R52 to R54, 44_keys_timers.md R222) -/

theorem memRead_records (a : Nat) (s : State) : Records .readOob (0xFFF < a) s (memRead a s).2 := by
  by_cases ha : a ≤ 0xFFF
  · rw [memRead_in ha]; exact records_of_fault_eq (by omega) rfl
  · rw [memRead_out ha]; exact records_raise (by omega)

theorem memWrite_records (a : Nat) (v : Byte) (s : State) : Records .writeOob (0xFFF < a) s (memWrite a v s) := by
  by_cases ha : a ≤ 0xFFF
  · rw [memWrite_in ha]; exact records_of_fault_eq (by omega) rfl
  · rw [memWrite_out ha]; exact records_raise (by omega)

theorem fetchRead_records (a : Nat) (s : State) : Records .fetchOob (0xFFF < a) s (fetchRead a s).2 := by
  by_cases ha : a ≤ 0xFFF
  · rw [fetchRead_in ha]; exact records_of_fault_eq (by omega) rfl
  · rw [fetchRead_out ha]; exact records_raise (by omega)

theorem keyRead_records (k : Byte) (s : State) : Records .keyOob (15 < k.toNat) s (keyRead k s).2 := by
  by_cases hk : k.toNat ≤ 15
  · rw [keyRead_in hk]; exact records_of_fault_eq (by omega) rfl
  · rw [keyRead_out hk]; exact records_raise (by omega)

theorem fetchAdvance_records (s : State) : Records .fetchOob (0xFFF < s.pc.toNat + 1) s (fetchAdvance s) := by
  have hboth := (fetchRead_records s.pc.toNat s).trans (fetchRead_records (s.pc.toNat + 1) (fetchHi s).2)
  exact (hboth.of_iff (by omega)).congr_right rfl

theorem storeRegs_records (base : Nat) (rs : List Reg) (s : State) :
    Records .writeOob (∃ r ∈ rs, 0xFFF < base + r.val) s (storeRegs base rs s) :=
  records_foldl (get := id) (fun t r => memWrite_records (base + r.val) (t.reg r) t) rs s

theorem loadRegs_records (base : Nat) (rs : List Reg) (s : State) :
    Records .readOob (∃ r ∈ rs, 0xFFF < base + r.val) s (loadRegs base rs s) :=
  records_foldl (get := id) (fun t r => (memRead_records (base + r.val) t).congr_right rfl) rs s

/-- A row records its one read; its columns record nothing. -/
theorem drawRow_records (base x0 y0 : Nat) (d : State × Bool) (r : Nat) :
    Records .readOob (0xFFF < base + r) d.1 (drawRow base x0 y0 d r).1 := by
  refine (memRead_records (base + r) d.1).congr_right ?_
  rw [drawRow, foldl_drawColumn_keeps (fun s => s.fault) _ _ _ (fun d c => drawColumn_fault _ _ _ d c)]

theorem drawSprite_records (base x0 y0 n : Nat) (s : State) :
    Records .readOob (∃ r ∈ List.range n, 0xFFF < base + r) s (drawSprite base x0 y0 n s).1 :=
  records_foldl (get := Prod.fst) (fun d r => drawRow_records base x0 y0 d r) (List.range n) (s, false)

/-! ### What each instruction records (R281) -/

/-- The one cause an instruction can raise; any answer will do for an instruction that raises none. -/
def faultCauseOf : Instr → FaultCause
  | .call _ => .stackOverflow
  | .ret => .stackUnderflow
  | .drw _ _ _ | .ldVxMem _ => .readOob
  | .ldBVx _ | .ldMemVx _ => .writeOob
  | .skp _ | .sknp _ => .keyOob
  | _ => .fetchOob

theorem raises_only_faultCauseOf {s : State} {i : Instr} {c : FaultCause} (h : raises s i c) : c = faultCauseOf i := by
  unfold raises at h
  split at h
  case h_9 => exact h.elim
  all_goals rfl

@[simp] theorem takeKey_fault (x : Reg) (k : Fin 16) (s : State) : (takeKey x k s).fault = s.fault := by
  unfold takeKey
  split <;> rfl

/-- The registers V0 to Vx lie at `base` to `base + x`. -/
theorem exists_regsThrough_iff (x : Reg) (P : Nat → Prop) :
    (∃ r ∈ regsThrough x, P r.val) ↔ ∃ r, r ≤ x.val ∧ P r := by
  constructor
  · rintro ⟨r, hr, hP⟩
    exact ⟨r.val, (mem_regsThrough x r).1 hr, hP⟩
  · rintro ⟨r, hr, hP⟩
    exact ⟨⟨r, by omega⟩, (mem_regsThrough x _).2 hr, hP⟩

/-- Every instruction answers a next state in which the one cause it can raise is recorded under the table's condition. -/
theorem exec_records (i : Instr) (s : State) :
    ∃ t, exec i s = .next t ∧ Records (faultCauseOf i) (raises s i (faultCauseOf i)) s t := by
  cases i with
  | call nnn =>
    by_cases h : s.sp.val = 16
    · exact ⟨_, exec_call_full nnn h, records_raise h⟩
    · exact ⟨_, exec_call_room nnn (by omega), records_of_fault_eq h rfl⟩
  | ret =>
    by_cases h : s.sp.val = 0
    · exact ⟨_, exec_ret_empty h, records_raise h⟩
    · exact ⟨_, exec_ret_some (by omega), records_of_fault_eq h rfl⟩
  | drw x y n =>
    refine ⟨_, exec_drw x y n s, ((drawSprite_records _ _ _ _ s).congr_right rfl).of_iff ?_⟩
    simp [faultCauseOf, raises]
  | ldVxMem x =>
    exact ⟨_, exec_ldVxMem x s, ((loadRegs_records _ _ s).congr_right rfl).of_iff
      (exists_regsThrough_iff x (fun r => 0xFFF < s.effAddr 0 + r))⟩
  | ldMemVx x =>
    exact ⟨_, exec_ldMemVx x s, ((storeRegs_records _ _ s).congr_right rfl).of_iff
      (exists_regsThrough_iff x (fun r => 0xFFF < s.effAddr 0 + r))⟩
  | ldBVx x =>
    refine ⟨_, exec_ldBVx x s, Records.of_iff
      (((memWrite_records _ _ _).trans (memWrite_records _ _ _)).trans (memWrite_records _ _ _)) ?_⟩
    constructor
    · rintro ((h | h) | h)
      · exact ⟨0, by omega, h⟩
      · exact ⟨1, by omega, h⟩
      · exact ⟨2, by omega, h⟩
    · rintro ⟨r, hr, h⟩
      have haddr : s.effAddr 0 = s.I.toNat := rfl
      omega
  | skp | sknp => exact ⟨_, rfl, (keyRead_records _ s).congr_right (skipIf_fault _ _)⟩
  | seVxNn | sneVxNn | seVxVy | sneVxVy => exact ⟨_, rfl, records_of_fault_eq not_false (skipIf_fault s _)⟩
  | ldVxK x =>
    cases h : s.firstKeyDown? with
    | none => exact ⟨_, exec_ldVxK_none x h, records_of_fault_eq not_false rfl⟩
    | some k => exact ⟨_, exec_ldVxK_some x h, records_of_fault_eq not_false (takeKey_fault x k s)⟩
  | _ => exact ⟨_, rfl, records_of_fault_eq not_false rfl⟩

/-- Settles O19: the one cause an instruction can raise is recorded under its condition, and no other is. -/
theorem faultBitsAreRaisedAsTheTableSays : Obligations.FaultBitsAreRaisedAsTheTableSays := by
  intro i s
  obtain ⟨t, hexec, hrec⟩ := exec_records i s
  refine ⟨t, hexec, fun c => (hrec.bit_iff c).trans (or_congr_right ?_)⟩
  constructor
  · rintro ⟨hraises, rfl⟩
    exact hraises
  · intro hraises
    obtain rfl := raises_only_faultCauseOf hraises
    exact ⟨hraises, rfl⟩

/-- Settles O20: the fetch and the execute part only record causes, and the tick leaves `fault` alone. -/
theorem faultBitsAreSticky : Obligations.FaultBitsAreSticky := by
  intro s
  obtain ⟨t, hexec, hrec⟩ := exec_records (fetchedInstr s) (fetchAdvance s)
  exact ⟨finishStep t, step_of_exec hexec, fun b hb => hrec.bit_sticky ((fetchAdvance_records s).bit_sticky hb)⟩

/-! ### The invariant (10_state.md R39) -/

/-- The settings and the canonical form of memory are kept, from `s` to `t`. -/
def KeepsMemWf (s t : State) : Prop := Memory.wf s.cfg s.mem = true → Memory.wf t.cfg t.mem = true

theorem keepsMemWf_of_eq {s t : State} (hcfg : t.cfg = s.cfg) (hmem : t.mem = s.mem) : KeepsMemWf s t := by
  intro h
  rwa [hcfg, hmem]

@[simp] theorem takeKey_cfg (x : Reg) (k : Fin 16) (s : State) : (takeKey x k s).cfg = s.cfg := by
  unfold takeKey
  split <;> rfl

@[simp] theorem takeKey_mem (x : Reg) (k : Fin 16) (s : State) : (takeKey x k s).mem = s.mem := by
  unfold takeKey
  split <;> rfl

/-- Only FX33 and FX55 write memory, through `memWrite` alone. -/
theorem exec_keepsMemWf (i : Instr) (s : State) : ∃ t, exec i s = .next t ∧ KeepsMemWf s t := by
  cases i with
  | ldBVx x => exact ⟨_, rfl, wf_writeBytes _ _ s⟩
  | ldMemVx x => exact ⟨_, exec_ldMemVx x s, wf_storeRegs _ _ s⟩
  | ldVxMem x => exact ⟨_, exec_ldVxMem x s, keepsMemWf_of_eq (loadRegs_cfg _ _ s) (loadRegs_mem _ _ s)⟩
  | drw x y n => exact ⟨_, exec_drw x y n s, keepsMemWf_of_eq (drawSprite_cfg _ _ _ _ s) (drawSprite_mem _ _ _ _ s)⟩
  | call nnn =>
    by_cases h : s.sp.val = 16
    · exact ⟨_, exec_call_full nnn h, keepsMemWf_of_eq rfl rfl⟩
    · exact ⟨_, exec_call_room nnn (by omega), keepsMemWf_of_eq rfl rfl⟩
  | ret =>
    by_cases h : s.sp.val = 0
    · exact ⟨_, exec_ret_empty h, keepsMemWf_of_eq rfl rfl⟩
    · exact ⟨_, exec_ret_some (by omega), keepsMemWf_of_eq rfl rfl⟩
  | ldVxK x =>
    cases h : s.firstKeyDown? with
    | none => exact ⟨_, exec_ldVxK_none x h, keepsMemWf_of_eq rfl rfl⟩
    | some k => exact ⟨_, exec_ldVxK_some x h, keepsMemWf_of_eq (takeKey_cfg x k s) (takeKey_mem x k s)⟩
  | skp | sknp => exact ⟨_, rfl, keepsMemWf_of_eq (by simp) (by simp)⟩
  | seVxNn | sneVxNn | seVxVy | sneVxVy => exact ⟨_, rfl, keepsMemWf_of_eq (skipIf_cfg s _) (skipIf_mem s _)⟩
  | _ => exact ⟨_, rfl, keepsMemWf_of_eq rfl rfl⟩

theorem fetchAdvance_keeps_inv {s : State} (h : s.Inv) : (fetchAdvance s).Inv :=
  ⟨keepsMemWf_of_eq (fetchAdvance_cfg s) (fetchAdvance_mem s) h.1, (fetchAdvance_records s).top_clear h.2⟩

theorem exec_keeps_inv (i : Instr) {s : State} (h : s.Inv) : ∃ t, exec i s = .next t ∧ t.Inv := by
  obtain ⟨t, hexec, hrec⟩ := exec_records i s
  exact ⟨t, hexec, holds_of_exec (exec_keepsMemWf i s) hexec h.1, hrec.top_clear h.2⟩

/-- Settles O17: the fetch keeps the invariant, every execute part keeps it, and the tick touches neither memory nor `fault`. -/
theorem stepKeepsTheInvariant : Obligations.StepKeepsTheInvariant := by
  intro s h
  obtain ⟨t, hexec, hinv⟩ := exec_keeps_inv (fetchedInstr s) (fetchAdvance_keeps_inv h)
  exact ⟨finishStep t, step_of_exec hexec, hinv⟩

end Sys2Proof.Machine
end

section
/-! SUPPORT. The two register loops of 45_index_memory.md (R253, R254): what memory and the registers read as after them. -/

namespace Sys2Proof.Machine

/-! ### The bytes an access sees -/

theorem memRead_fst_eq_byteAt (a : Nat) (s : State) : (memRead a s).1 = s.byteAt a := memRead_fst a s

theorem byteAt_congr {s t : State} (h : ∀ a, t.peek a = s.peek a) (a : Nat) : t.byteAt a = s.byteAt a := by
  rw [State.byteAt, h, State.byteAt]

/-! ### The loop of FX55 -/

theorem storeRegs_cons (base : Nat) (r : Reg) (rs : List Reg) (s : State) :
    storeRegs base (r :: rs) s = storeRegs base rs (memWrite (base + r.val) (s.reg r) s) := rfl

/-- A byte past memory, or at no register's address, is left alone. -/
theorem peek_storeRegs_of_ne {base a : Nat} {rs : List Reg} (s : State)
    (h : 0xFFF < a ∨ ∀ r ∈ rs, a ≠ base + r.val) : (storeRegs base rs s).peek a = s.peek a := by
  induction rs generalizing s with
  | nil => rfl
  | cons r rs ih =>
    have hmiss : ¬ (a = base + r.val ∧ base + r.val ≤ 0xFFF) := by
      rintro ⟨rfl, hin⟩
      rcases h with hout | hne
      · omega
      · exact hne r (by simp) rfl
    rw [storeRegs_cons, ih _ (h.imp_right fun hne q hq => hne q (by simp [hq])), peek_memWrite, if_neg hmiss]

/-- Each register of the list stands at its address in memory: no later round overwrites it. -/
theorem peek_storeRegs_of_mem {base : Nat} {rs : List Reg} {r : Reg} (s : State) (hr : r ∈ rs)
    (hin : base + r.val ≤ 0xFFF) : (storeRegs base rs s).peek (base + r.val) = s.reg r := by
  induction rs generalizing s with
  | nil => simp at hr
  | cons q rs ih =>
    rw [storeRegs_cons]
    by_cases hlater : r ∈ rs
    · rw [ih _ hlater, reg_congr (memWrite_V _ _ s)]
    · obtain rfl : r = q := by simpa [hlater] using hr
      have hne : ∀ q ∈ rs, base + r.val ≠ base + q.val := by
        intro q hq he
        exact hlater (Fin.ext (Nat.add_left_cancel he) ▸ hq)
      rw [peek_storeRegs_of_ne _ (.inr hne), peek_memWrite, if_pos ⟨rfl, hin⟩]

/-! ### The loop of FX65 -/

theorem loadRegs_cons (base : Nat) (r : Reg) (rs : List Reg) (s : State) :
    loadRegs base (r :: rs) s = loadRegs base rs ((memRead (base + r.val) s).2.setReg r (memRead (base + r.val) s).1) := rfl

theorem reg_loadRegs_of_not_mem {base : Nat} {rs : List Reg} {r : Reg} (s : State) (hr : r ∉ rs) :
    (loadRegs base rs s).reg r = s.reg r := by
  induction rs generalizing s with
  | nil => rfl
  | cons q rs ih =>
    rw [List.mem_cons, not_or] at hr
    rw [loadRegs_cons, ih _ hr.2, reg_setReg_ne _ _ hr.1, reg_congr (memRead_V _ s)]

/-- Each register of the list holds the byte at its address: the loop writes no memory. -/
theorem reg_loadRegs_of_mem {base : Nat} {rs : List Reg} {r : Reg} (s : State) (hr : r ∈ rs) :
    (loadRegs base rs s).reg r = s.byteAt (base + r.val) := by
  induction rs generalizing s with
  | nil => simp at hr
  | cons q rs ih =>
    rw [loadRegs_cons]
    by_cases hlater : r ∈ rs
    · rw [ih _ hlater]
      exact byteAt_congr (by simp) _
    · obtain rfl : r = q := by simpa [hlater] using hr
      rw [reg_loadRegs_of_not_mem _ hlater, reg_setReg_self, memRead_fst_eq_byteAt]

end Sys2Proof.Machine
end

section
/-! PROOFS. The statement of 10_state.md R37 on writes: the frame of every operation, and of every instruction. -/

namespace Sys2Proof.Machine

/-! ### Frames compose -/

theorem Part.same_refl (s : State) (p : Part) : Part.same s s p := by
  cases p with
  | V | stack | mem | video | keys => exact fun _ => rfl
  | I | pc | sp | DT | ST | opcode | fault | cfg | randIn | draws => rfl

theorem Part.same_trans {s t u : State} {p : Part} (hst : Part.same s t p) (htu : Part.same t u p) : Part.same s u p := by
  cases p with
  | V | stack | mem | video | keys => exact fun k => (htu k).trans (hst k)
  | I | pc | sp | DT | ST | opcode | fault | cfg | randIn | draws => exact Eq.trans htu hst

theorem unchanged_refl (ps : List Part) (s : State) : UnchangedExcept ps s s := fun p _ => Part.same_refl s p

theorem UnchangedExcept.trans {ps : List Part} {s t u : State} (hst : UnchangedExcept ps s t)
    (htu : UnchangedExcept ps t u) : UnchangedExcept ps s u :=
  fun p hp => Part.same_trans (hst p hp) (htu p hp)

theorem UnchangedExcept.mono {ps qs : List Part} {s t : State} (h : UnchangedExcept ps s t) (hsub : ps ⊆ qs) :
    UnchangedExcept qs s t :=
  fun p hp => h p fun hin => hp (hsub hin)

/-- What every round of a loop leaves alone, the loop leaves alone. -/
theorem foldl_unchanged {α β : Type} {ps : List Part} {get : β → State} {f : β → α → β}
    (hround : ∀ b a, UnchangedExcept ps (get b) (get (f b a))) (as : List α) (b : β) :
    UnchangedExcept ps (get b) (get (as.foldl f b)) := by
  induction as generalizing b with
  | nil => exact unchanged_refl ps _
  | cons a as ih => exact (hround b a).trans (ih (f b a))

/-! ### The frame of each operation -/

theorem raise_unchanged (c : FaultCause) (s : State) : UnchangedExcept [.fault] s (s.raise c) := by
  intro p hp
  cases p with
  | fault => simp at hp
  | V | stack | mem | video | keys => exact fun _ => rfl
  | I | pc | sp | DT | ST | opcode | cfg | randIn | draws => rfl

theorem poke_unchanged (s : State) (a : Nat) (v : Byte) : UnchangedExcept [.mem] s (s.poke a v) := by
  intro p hp
  cases p with
  | mem => simp at hp
  | V | stack | video | keys => exact fun _ => rfl
  | I | pc | sp | DT | ST | opcode | fault | cfg | randIn | draws => rfl

theorem clearKey_unchanged (s : State) (k : Fin 16) : UnchangedExcept [.keys] s (s.clearKey k) := by
  intro p hp
  cases p with
  | keys => simp at hp
  | V | stack | mem | video => exact fun _ => rfl
  | I | pc | sp | DT | ST | opcode | fault | cfg | randIn | draws => rfl

theorem setFlag_unchanged (s : State) (b : Bool) : UnchangedExcept [.V] s (s.setFlag b) :=
  setReg_unchanged s regF (flagByte b)

theorem setResultThenFlag_unchanged (s : State) (x : Reg) (r : Byte) (f : Bool) :
    UnchangedExcept [.V] s (s.setResultThenFlag x r f) :=
  (setReg_unchanged s x r).trans (setFlag_unchanged _ f)

theorem memRead_unchanged (a : Nat) (s : State) : UnchangedExcept [.fault] s (memRead a s).2 := by
  by_cases ha : a ≤ 0xFFF
  · rw [memRead_in ha]; exact unchanged_refl _ s
  · rw [memRead_out ha]; exact raise_unchanged _ s

theorem memWrite_unchanged (a : Nat) (v : Byte) (s : State) : UnchangedExcept [.mem, .fault] s (memWrite a v s) := by
  by_cases ha : a ≤ 0xFFF
  · rw [memWrite_in ha]; exact (poke_unchanged s a v).mono (by simp)
  · rw [memWrite_out ha]; exact (raise_unchanged _ s).mono (by simp)

theorem keyRead_unchanged (k : Byte) (s : State) : UnchangedExcept [.fault] s (keyRead k s).2 := by
  by_cases hk : k.toNat ≤ 15
  · rw [keyRead_in hk]; exact unchanged_refl _ s
  · rw [keyRead_out hk]; exact raise_unchanged _ s

theorem storeRegs_unchanged (base : Nat) (rs : List Reg) (s : State) :
    UnchangedExcept [.mem, .fault] s (storeRegs base rs s) := by
  refine foldl_unchanged (get := id) ?_ rs s
  intro t r
  exact memWrite_unchanged (base + r.val) (t.reg r) t

theorem loadRegs_unchanged (base : Nat) (rs : List Reg) (s : State) :
    UnchangedExcept [.V, .fault] s (loadRegs base rs s) := by
  refine foldl_unchanged (get := id) ?_ rs s
  intro t r
  have hread : UnchangedExcept [.V, .fault] t (memRead (base + r.val) t).2 := (memRead_unchanged _ t).mono (by simp)
  exact hread.trans ((setReg_unchanged _ r _).mono (by simp))

theorem drawColumn_unchanged (x0 py : Nat) (row : Byte) (d : State × Bool) (c : Nat) :
    UnchangedExcept [.video] d.1 (drawColumn x0 py row d c).1 := by
  unfold drawColumn
  split
  · split
    · exact withVideo_unchanged d.1 _
    · exact unchanged_refl _ d.1
  · exact unchanged_refl _ d.1

theorem drawRow_unchanged (base x0 y0 : Nat) (d : State × Bool) (r : Nat) :
    UnchangedExcept [.video, .fault] d.1 (drawRow base x0 y0 d r).1 :=
  ((memRead_unchanged (base + r) d.1).mono (by simp)).trans
    (foldl_unchanged (get := Prod.fst) (fun d c => (drawColumn_unchanged _ _ _ d c).mono (by simp)) (List.range 8) _)

theorem drawSprite_unchanged (base x0 y0 n : Nat) (s : State) :
    UnchangedExcept [.video, .fault] s (drawSprite base x0 y0 n s).1 :=
  foldl_unchanged (get := Prod.fst) (fun d r => drawRow_unchanged base x0 y0 d r) (List.range n) (s, false)

/-- CALL's push and jump (R142). -/
theorem push_unchanged (s : State) (stack : Vector Word 16) (sp : Fin 17) (pc : Word) :
    UnchangedExcept [.stack, .sp, .pc] s { s with stack := stack, sp := sp, pc := pc } := by
  intro p hp
  cases p with
  | stack | sp | pc => simp at hp
  | V | mem | video | keys => exact fun _ => rfl
  | I | DT | ST | opcode | fault | cfg | randIn | draws => rfl

/-- RET's pop and return (R140). -/
theorem pop_unchanged (s : State) (sp : Fin 17) (pc : Word) :
    UnchangedExcept [.sp, .pc] s { s with sp := sp, pc := pc } := by
  intro p hp
  cases p with
  | sp | pc => simp at hp
  | V | stack | mem | video | keys => exact fun _ => rfl
  | I | DT | ST | opcode | fault | cfg | randIn | draws => rfl

/-! ### FX0A's key (44_keys_timers.md R224) -/

theorem takeKey_clearing (x : Reg) (k : Fin 16) {s : State} (h : s.cfg.fx0aClearsKey = true) :
    takeKey x k s = (s.setReg x (BitVec.ofNat 8 k.val)).clearKey k := by
  simp [takeKey, h]

theorem takeKey_keeping (x : Reg) (k : Fin 16) {s : State} (h : s.cfg.fx0aClearsKey = false) :
    takeKey x k s = s.setReg x (BitVec.ofNat 8 k.val) := by
  simp [takeKey, h]

theorem takeKey_unchanged (x : Reg) (k : Fin 16) (s : State) : UnchangedExcept [.V, .keys] s (takeKey x k s) := by
  have hV : UnchangedExcept [.V, .keys] s (s.setReg x (BitVec.ofNat 8 k.val)) := (setReg_unchanged s x _).mono (by simp)
  cases h : s.cfg.fx0aClearsKey with
  | true =>
    rw [takeKey_clearing x k h]
    exact hV.trans ((clearKey_unchanged _ k).mono (by simp))
  | false =>
    rw [takeKey_keeping x k h]
    exact hV

theorem reg_takeKey (x : Reg) (k : Fin 16) (s : State) (r : Reg) :
    (takeKey x k s).reg r = if r = x then BitVec.ofNat 8 k.val else s.reg r := by
  rw [← reg_setReg]
  unfold takeKey
  split <;> rfl

/-! ### The frame of each instruction (R37, column "written by") -/

theorem exec_unchanged (i : Instr) (s : State) : ∃ t, exec i s = .next t ∧ UnchangedExcept (writtenParts i) s t := by
  cases i with
  | cls => exact ⟨_, rfl, withVideo_unchanged s _⟩
  | jp | jpV0Nnn => exact ⟨_, rfl, setPc_unchanged s _⟩
  | seVxNn | sneVxNn | seVxVy | sneVxVy => exact ⟨_, rfl, skipIf_unchanged s _⟩
  | ldVxNn | addVxNn | rndVxNn | ldVxVy | orVxVy | andVxVy | xorVxVy | ldVxDt => exact ⟨_, rfl, setReg_unchanged s _ _⟩
  | addVxVy | subVxVy | shrVxVy | subnVxVy | shlVxVy => exact ⟨_, rfl, setResultThenFlag_unchanged s _ _ _⟩
  | ldINnn | addIVx | ldFVx => exact ⟨_, rfl, setI_unchanged s _⟩
  | ldDtVx => exact ⟨_, rfl, setDT_unchanged s _⟩
  | ldStVx => exact ⟨_, rfl, setST_unchanged s _⟩
  | unassigned => exact ⟨_, rfl, unchanged_refl _ s⟩
  | ret =>
    by_cases h : s.sp.val = 0
    · exact ⟨_, exec_ret_empty h, (raise_unchanged _ s).mono (by simp [writtenParts])⟩
    · exact ⟨_, exec_ret_some (by omega), (pop_unchanged s _ _).mono (by simp [writtenParts])⟩
  | call nnn =>
    by_cases h : s.sp.val = 16
    · exact ⟨_, exec_call_full nnn h, (raise_unchanged _ s).mono (by simp [writtenParts])⟩
    · exact ⟨_, exec_call_room nnn (by omega), (push_unchanged s _ _ _).mono (by simp [writtenParts])⟩
  | ldVxK x =>
    cases h : s.firstKeyDown? with
    | none => exact ⟨_, exec_ldVxK_none x h, (setPc_unchanged s _).mono (by simp [writtenParts])⟩
    | some k => exact ⟨_, exec_ldVxK_some x h, (takeKey_unchanged x k s).mono (by simp [writtenParts])⟩
  | skp | sknp =>
    exact ⟨_, rfl, ((keyRead_unchanged _ s).mono (by simp [writtenParts])).trans
      ((skipIf_unchanged _ _).mono (by simp [writtenParts]))⟩
  | drw x y n =>
    exact ⟨_, exec_drw x y n s, ((drawSprite_unchanged _ _ _ _ s).mono (by simp [writtenParts])).trans
      ((setFlag_unchanged _ _).mono (by simp [writtenParts]))⟩
  | ldBVx x =>
    exact ⟨_, exec_ldBVx x s, ((memWrite_unchanged _ _ s).trans (memWrite_unchanged _ _ _)).trans (memWrite_unchanged _ _ _)⟩
  | ldMemVx x =>
    exact ⟨_, exec_ldMemVx x s, ((storeRegs_unchanged _ _ s).mono (by simp [writtenParts])).trans
      ((setI_unchanged _ _).mono (by simp [writtenParts]))⟩
  | ldVxMem x =>
    exact ⟨_, exec_ldVxMem x s, ((loadRegs_unchanged _ _ s).mono (by simp [writtenParts])).trans
      ((setI_unchanged _ _).mono (by simp [writtenParts]))⟩

theorem unchanged_of_exec {i : Instr} {s t : State} (hexec : exec i s = .next t) : UnchangedExcept (writtenParts i) s t :=
  holds_of_exec (exec_unchanged i s) hexec

/-- An instruction whose frame holds `V` keeps every register; of the others each writes the registers named alone. -/
theorem exec_keeps_unwritten_regs (i : Instr) (s : State) :
    ∃ t, exec i s = .next t ∧ ∀ r, writtenReg i r = false → t.reg r = s.reg r := by
  cases i with
  | ldVxNn | addVxNn | rndVxNn | ldVxVy | orVxVy | andVxVy | xorVxVy | ldVxDt =>
    exact ⟨_, rfl, fun r hr => reg_setReg_ne s _ (by simpa [writtenReg] using hr)⟩
  | addVxVy | subVxVy | shrVxVy | subnVxVy | shlVxVy =>
    refine ⟨_, rfl, fun r hr => ?_⟩
    obtain ⟨hx, hF⟩ : r ≠ _ ∧ r ≠ regF := by simpa [writtenReg] using hr
    rw [reg_setResultThenFlag, if_neg hF, if_neg hx]
  | ldVxK x =>
    cases h : s.firstKeyDown? with
    | none => exact ⟨_, exec_ldVxK_none x h, fun _ _ => rfl⟩
    | some k =>
      refine ⟨_, exec_ldVxK_some x h, fun r hr => ?_⟩
      rw [reg_takeKey, if_neg (by simpa [writtenReg] using hr)]
  | drw x y n =>
    refine ⟨_, exec_drw x y n s, fun r hr => ?_⟩
    rw [reg_setFlag, if_neg (by simpa [writtenReg] using hr), reg_congr (drawSprite_V _ _ _ _ s)]
  | ldVxMem x =>
    refine ⟨_, exec_ldVxMem x s, fun r hr => reg_loadRegs_of_not_mem s ?_⟩
    simpa [mem_regsThrough, writtenReg] using hr
  | _ => exact (exec_unchanged _ s).imp fun t h => ⟨h.1, fun r _ => h.2 .V (by simp [writtenParts]) r⟩

/-- Only FX0A can change the latch, and only under its setting (the spec's decision D15). -/
theorem exec_keeps_keys (i : Instr) {s : State} (hkeep : s.cfg.fx0aClearsKey = false) :
    ∃ t, exec i s = .next t ∧ ∀ k, t.key k = s.key k := by
  cases i with
  | ldVxK x =>
    cases h : s.firstKeyDown? with
    | none => exact ⟨_, exec_ldVxK_none x h, fun _ => rfl⟩
    | some k => exact ⟨_, exec_ldVxK_some x h, fun _ => by rw [takeKey_keeping x k hkeep]; rfl⟩
  | _ => exact (exec_unchanged _ s).imp fun t h => ⟨h.1, h.2 .keys (by simp [writtenParts])⟩

/-- Settles O18: the frame by parts, the registers and the key latch, of the one state the instruction answers. -/
theorem instructionsWriteOnlyWhatTheTableNames : Obligations.InstructionsWriteOnlyWhatTheTableNames := by
  intro i s
  obtain ⟨t, hexec, hparts⟩ := exec_unchanged i s
  exact ⟨t, hexec, hparts, holds_of_exec (exec_keeps_unwritten_regs i s) hexec,
    fun hkeep => holds_of_exec (exec_keeps_keys i hkeep) hexec⟩

end Sys2Proof.Machine
end

section
/-! PROOFS. The statements of 10_state.md R37 on reads: no instruction reads ST, opcode or fault, and only a few read the random
byte, the keys or the pixels. -/

namespace Sys2Proof.Machine

/-! ### Values laid over the parts that the execute part does not read -/

/-- Other values for ST, opcode, the random byte, the keys and the pixels (`none` keeps the state's own), and bits set in `fault`,
which the execute part only ever sets more bits of. -/
structure Overlay where
  ST        : Option Byte := none
  opcode    : Option Word := none
  faultBits : Byte := 0#8
  rand      : Option (Option Byte × Nat) := none
  keys      : Option (Vector Bool 16) := none
  video     : Option Screen := none

/-- The state with the overlay's values in place. -/
def Overlay.apply (o : Overlay) (s : State) : State :=
  { s with
    ST := o.ST.getD s.ST, opcode := o.opcode.getD s.opcode, fault := s.fault ||| o.faultBits,
    randIn := (o.rand.getD (s.randIn, s.draws)).1, draws := (o.rand.getD (s.randIn, s.draws)).2,
    keys := o.keys.getD s.keys, video := o.video.getD s.video }

/-- The overlay leaves alone what the instruction reads or overwrites of these parts (R37). -/
def Overlay.Spares (o : Overlay) : Instr → Prop
  | .ldStVx _ => o.ST = none
  | .rndVxNn _ _ => o.rand = none
  | .skp _ | .sknp _ | .ldVxK _ => o.keys = none
  | .cls | .drw _ _ _ => o.video = none
  | _ => True

/-! ### Each operation commutes with an overlay that spares what it reads -/

namespace Overlay

variable (o : Overlay) (s : State)

theorem reg_apply (x : Reg) : (o.apply s).reg x = s.reg x := rfl

theorem apply_raise (c : FaultCause) : (o.apply s).raise c = o.apply (s.raise c) := by
  have hbits : s.fault ||| o.faultBits ||| 1#8 <<< c.code = s.fault ||| 1#8 <<< c.code ||| o.faultBits := by
    rw [BitVec.or_assoc, BitVec.or_comm o.faultBits, BitVec.or_assoc]
  show { o.apply s with fault := s.fault ||| o.faultBits ||| 1#8 <<< c.code } = _
  rw [hbits]
  rfl

theorem apply_skipIf (b : Bool) : (o.apply s).skipIf b = o.apply (s.skipIf b) := by
  cases b <;> rfl

theorem memRead_apply (a : Nat) : memRead a (o.apply s) = ((memRead a s).1, o.apply (memRead a s).2) := by
  by_cases ha : a ≤ 0xFFF
  · rw [memRead_in ha, memRead_in ha]; rfl
  · rw [memRead_out ha, memRead_out ha, apply_raise]

theorem memWrite_apply (a : Nat) (v : Byte) : memWrite a v (o.apply s) = o.apply (memWrite a v s) := by
  by_cases ha : a ≤ 0xFFF
  · rw [memWrite_in ha, memWrite_in ha]; rfl
  · rw [memWrite_out ha, memWrite_out ha, apply_raise]

theorem storeRegs_apply (base : Nat) (rs : List Reg) : storeRegs base rs (o.apply s) = o.apply (storeRegs base rs s) := by
  induction rs generalizing s with
  | nil => rfl
  | cons r rs ih =>
    rw [storeRegs_cons, memWrite_apply, ih, storeRegs_cons]
    rfl

theorem loadRegs_apply (base : Nat) (rs : List Reg) : loadRegs base rs (o.apply s) = o.apply (loadRegs base rs s) := by
  induction rs generalizing s with
  | nil => rfl
  | cons r rs ih =>
    rw [loadRegs_cons, memRead_apply, loadRegs_cons]
    exact ih ((memRead (base + r.val) s).2.setReg r (memRead (base + r.val) s).1)

variable {o}

theorem keys_apply (h : o.keys = none) : (o.apply s).keys = s.keys := by
  rw [Overlay.apply, h]
  rfl

theorem keyRead_apply (h : o.keys = none) (k : Byte) : keyRead k (o.apply s) = ((keyRead k s).1, o.apply (keyRead k s).2) := by
  by_cases hk : k.toNat ≤ 15
  · rw [keyRead_in hk, keyRead_in hk, key_congr (keys_apply s h)]
  · rw [keyRead_out hk, keyRead_out hk, apply_raise]

theorem firstKeyDown?_apply (h : o.keys = none) : (o.apply s).firstKeyDown? = s.firstKeyDown? := by
  simp only [State.firstKeyDown?, key_congr (keys_apply s h)]

theorem takeKey_apply (h : o.keys = none) (x : Reg) (k : Fin 16) : takeKey x k (o.apply s) = o.apply (takeKey x k s) := by
  obtain ⟨_, _, _, _, keys, _⟩ := o
  obtain rfl : keys = none := h
  cases hclear : s.cfg.fx0aClearsKey with
  | true => rw [takeKey_clearing x k hclear]; exact takeKey_clearing x k hclear
  | false => rw [takeKey_keeping x k hclear]; exact takeKey_keeping x k hclear

theorem pixel_apply (h : o.video = none) (p : Fin 2048) : (o.apply s).pixel p = s.pixel p := by
  rw [State.pixel, Overlay.apply, h]
  rfl

theorem apply_togglePixel (h : o.video = none) (p : Fin 2048) : (o.apply s).togglePixel p = o.apply (s.togglePixel p) := by
  obtain ⟨_, _, _, _, _, video⟩ := o
  obtain rfl : video = none := h
  rfl

/-! ### The drawing loop, a state and its collision flag -/

theorem drawColumn_apply (h : o.video = none) (x0 py : Nat) (row : Byte) (d : State × Bool) (c : Nat) :
    drawColumn x0 py row (o.apply d.1, d.2) c =
      (o.apply (drawColumn x0 py row d c).1, (drawColumn x0 py row d c).2) := by
  have hcfg : (o.apply d.1).cfg = d.1.cfg := rfl
  cases hbit : row.getLsbD (7 - c) with
  | false => simp [drawColumn, hbit]
  | true =>
    cases hp : pixelIndex? d.1.cfg.drawEdge (x0 + c) py with
    | none => simp [drawColumn, hbit, hcfg, hp]
    | some p => simp [drawColumn, hbit, hcfg, hp, apply_togglePixel d.1 h, pixel_apply d.1 h]

theorem foldl_drawColumn_apply (h : o.video = none) (x0 py : Nat) (row : Byte) (cs : List Nat) (d : State × Bool) :
    cs.foldl (drawColumn x0 py row) (o.apply d.1, d.2) =
      (o.apply (cs.foldl (drawColumn x0 py row) d).1, (cs.foldl (drawColumn x0 py row) d).2) := by
  induction cs generalizing d with
  | nil => rfl
  | cons c cs ih => rw [List.foldl_cons, drawColumn_apply h, ih, List.foldl_cons]

theorem drawRow_apply (h : o.video = none) (base x0 y0 : Nat) (d : State × Bool) (r : Nat) :
    drawRow base x0 y0 (o.apply d.1, d.2) r = (o.apply (drawRow base x0 y0 d r).1, (drawRow base x0 y0 d r).2) := by
  rw [drawRow, memRead_apply]
  exact foldl_drawColumn_apply h _ _ _ _ ((memRead (base + r) d.1).2, d.2)

theorem drawSprite_apply (h : o.video = none) (base x0 y0 n : Nat) :
    drawSprite base x0 y0 n (o.apply s) = (o.apply (drawSprite base x0 y0 n s).1, (drawSprite base x0 y0 n s).2) := by
  have hrows : ∀ (rs : List Nat) (d : State × Bool), rs.foldl (drawRow base x0 y0) (o.apply d.1, d.2) =
      (o.apply (rs.foldl (drawRow base x0 y0) d).1, (rs.foldl (drawRow base x0 y0) d).2) := by
    intro rs
    induction rs with
    | nil => exact fun _ => rfl
    | cons r rs ih => intro d; rw [List.foldl_cons, drawRow_apply h, ih, List.foldl_cons]
  exact hrows (List.range n) (s, false)

end Overlay

/-! ### Each instruction commutes with an overlay that spares what it reads -/

theorem exec_overlay {o : Overlay} {i : Instr} (h : o.Spares i) (s : State) :
    ∃ t, exec i s = .next t ∧ exec i (o.apply s) = .next (o.apply t) := by
  cases i with
  | cls =>
    obtain ⟨_, _, _, _, _, video⟩ := o
    obtain rfl : video = none := h
    exact ⟨_, rfl, rfl⟩
  | ldStVx x =>
    obtain ⟨ST, _, _, _, _, _⟩ := o
    obtain rfl : ST = none := h
    exact ⟨_, rfl, rfl⟩
  | rndVxNn x nn =>
    obtain ⟨_, _, _, rand, _, _⟩ := o
    obtain rfl : rand = none := h
    exact ⟨_, rfl, rfl⟩
  | seVxNn | sneVxNn | seVxVy | sneVxVy => exact ⟨_, rfl, congrArg _ (o.apply_skipIf s _)⟩
  | ret =>
    by_cases hsp : s.sp.val = 0
    · exact ⟨_, exec_ret_empty hsp, (exec_ret_empty (s := o.apply s) hsp).trans (congrArg _ (o.apply_raise s _))⟩
    · have hpos : 0 < s.sp.val := Nat.pos_of_ne_zero hsp
      exact ⟨_, exec_ret_some hpos, exec_ret_some (s := o.apply s) hpos⟩
  | call nnn =>
    by_cases hsp : s.sp.val = 16
    · exact ⟨_, exec_call_full nnn hsp, (exec_call_full (s := o.apply s) nnn hsp).trans (congrArg _ (o.apply_raise s _))⟩
    · have hroom : s.sp.val < 16 := by omega
      exact ⟨_, exec_call_room nnn hroom, exec_call_room (s := o.apply s) nnn hroom⟩
  | skp x =>
    refine ⟨_, exec_skp x s, ?_⟩
    rw [exec_skp, Overlay.reg_apply, Overlay.keyRead_apply s h, Overlay.apply_skipIf]
  | sknp x =>
    refine ⟨_, exec_sknp x s, ?_⟩
    rw [exec_sknp, Overlay.reg_apply, Overlay.keyRead_apply s h, Overlay.apply_skipIf]
  | ldVxK x =>
    have hfirst := Overlay.firstKeyDown?_apply s h
    cases hk : s.firstKeyDown? with
    | none => exact ⟨_, exec_ldVxK_none x hk, exec_ldVxK_none x (hfirst.trans hk)⟩
    | some k =>
      refine ⟨_, exec_ldVxK_some x hk, ?_⟩
      rw [exec_ldVxK_some x (hfirst.trans hk), Overlay.takeKey_apply s h]
  | drw x y n =>
    refine ⟨_, exec_drw x y n s, ?_⟩
    have hdraw := Overlay.drawSprite_apply s h s.I.toNat (s.originX x) (s.originY y) n.val
    exact congrArg (fun d : State × Bool => Host.Outcome.next (d.1.setFlag d.2)) hdraw
  | ldBVx x =>
    refine ⟨_, exec_ldBVx x s, ?_⟩
    rw [exec_ldBVx, Overlay.memWrite_apply, Overlay.memWrite_apply, Overlay.memWrite_apply]
    rfl
  | ldMemVx x =>
    refine ⟨_, exec_ldMemVx x s, ?_⟩
    rw [exec_ldMemVx, Overlay.storeRegs_apply]
    rfl
  | ldVxMem x =>
    refine ⟨_, exec_ldVxMem x s, ?_⟩
    rw [exec_ldVxMem, Overlay.loadRegs_apply]
    rfl
  | _ => exact ⟨_, rfl, rfl⟩

/-! ### The statements -/

/-! Overlays of one input alone, without fault bits: what each is, and the instructions it spares. -/

theorem overlay_rand_apply (r : Option Byte) (d : Nat) (s : State) :
    Overlay.apply { rand := some (r, d) } s = { s with randIn := r, draws := d } := by
  simp [Overlay.apply]

theorem overlay_keys_apply (k : Vector Bool 16) (s : State) : Overlay.apply { keys := some k } s = { s with keys := k } := by
  simp [Overlay.apply]

theorem overlay_video_apply (v : Screen) (s : State) : Overlay.apply { video := some v } s = { s with video := v } := by
  simp [Overlay.apply]

theorem overlay_rand_spares {i : Instr} (hrnd : ∀ x nn, i ≠ .rndVxNn x nn) (rand : Option (Option Byte × Nat)) :
    Overlay.Spares { rand := rand } i := by
  cases i with
  | rndVxNn x nn => exact absurd rfl (hrnd x nn)
  | ldStVx | skp | sknp | ldVxK | cls | drw => rfl
  | _ => trivial

theorem overlay_keys_spares {i : Instr} (hskp : ∀ x, i ≠ .skp x) (hsknp : ∀ x, i ≠ .sknp x) (hwait : ∀ x, i ≠ .ldVxK x)
    (keys : Option (Vector Bool 16)) : Overlay.Spares { keys := keys } i := by
  cases i with
  | skp x => exact absurd rfl (hskp x)
  | sknp x => exact absurd rfl (hsknp x)
  | ldVxK x => exact absurd rfl (hwait x)
  | ldStVx | rndVxNn | cls | drw => rfl
  | _ => trivial

theorem overlay_video_spares {i : Instr} (hcls : i ≠ .cls) (hdrw : ∀ x y n, i ≠ .drw x y n) (video : Option Screen) :
    Overlay.Spares { video := video } i := by
  cases i with
  | cls => exact absurd rfl hcls
  | drw x y n => exact absurd rfl (hdrw x y n)
  | ldStVx | rndVxNn | skp | sknp | ldVxK => rfl
  | _ => trivial

theorem overlay_ST_opcode_fault_spares {i : Instr} (hST : ∀ x, i ≠ .ldStVx x) (ST : Option Byte) (opcode : Option Word)
    (faultBits : Byte) : Overlay.Spares { ST := ST, opcode := opcode, faultBits := faultBits } i := by
  cases i with
  | ldStVx x => exact absurd rfl (hST x)
  | rndVxNn | skp | sknp | ldVxK | cls | drw => rfl
  | _ => trivial

/-- An overlay seen from a known result. -/
theorem exec_overlay_of_exec {o : Overlay} {i : Instr} {s t : State} (hexec : exec i s = .next t) (h : o.Spares i) :
    exec i (o.apply s) = .next (o.apply t) := by
  obtain ⟨u, hexec', hover⟩ := exec_overlay h s
  rwa [show t = u by simpa [hexec] using hexec']

/-- Settles O22: the overlay of each input spares every instruction but those that read or overwrite it. -/
theorem inputsAreReadOnlyByTheirInstructions : Obligations.InputsAreReadOnlyByTheirInstructions := by
  intro i s
  obtain ⟨t, hexec⟩ := exec_completes i s
  refine ⟨t, hexec, fun hrnd r d => ?_, fun hskp hsknp hwait k => ?_, fun hcls hdrw v => ?_⟩
  · simpa only [overlay_rand_apply] using exec_overlay_of_exec hexec (overlay_rand_spares hrnd (some (r, d)))
  · simpa only [overlay_keys_apply] using exec_overlay_of_exec hexec (overlay_keys_spares hskp hsknp hwait (some k))
  · simpa only [overlay_video_apply] using exec_overlay_of_exec hexec (overlay_video_spares hcls hdrw (some v))

/-- A state is an overlay of its fault bits on the state with none. -/
theorem apply_fault_of_clear (s : State) : Overlay.apply { faultBits := s.fault } { s with fault := 0#8 } = s := by
  simp [Overlay.apply]

theorem apply_ST_opcode_fault_of_clear (s : State) (st f : Byte) (w : Word) :
    Overlay.apply { ST := some st, opcode := some w, faultBits := f } { s with fault := 0#8 } =
      { s with ST := st, fault := f, opcode := w } := by
  simp [Overlay.apply]

/-- Settles O21: both states are overlays of one state with an empty `fault`; FX18, which overwrites ST, answers outright. -/
theorem nothingReadsSoundTimerOpcodeOrFault : Obligations.NothingReadsSoundTimerOpcodeOrFault := by
  intro i s st f w
  by_cases hST : ∃ x, i = .ldStVx x
  · obtain ⟨x, rfl⟩ := hST
    exact ⟨_, rfl, s.reg x, f, w, rfl⟩
  · have hspares := overlay_ST_opcode_fault_spares (not_exists.1 hST)
    obtain ⟨t, hexec⟩ := exec_completes i { s with fault := 0#8 }
    have hs := exec_overlay_of_exec hexec (hspares none none s.fault)
    have hs' := exec_overlay_of_exec hexec (hspares (some st) (some w) f)
    rw [apply_fault_of_clear] at hs
    rw [apply_ST_opcode_fault_of_clear] at hs'
    exact ⟨_, hs, st, t.fault ||| f, w, hs'⟩

end Sys2Proof.Machine
end

section
/-! PROOFS. The statements on the host's transactions: `construct` (70_reset_and_hazards.md R321, 10_state.md R39), `load` (R323,
R324) and the pixel word (10_state.md R30). -/

namespace Sys2Proof.Machine

/-! ### `construct` -/

theorem inv_construct (cfg : Config) : (State.construct cfg).Inv := ⟨wf_construct cfg, BitVec.zero_and⟩

/-- Settles O2: a constructed memory lists nothing and a constructed `fault` is 0; the reset state is a constructed one. -/
theorem constructedStatesMeetTheInvariant : Obligations.ConstructedStatesMeetTheInvariant :=
  ⟨inv_construct defaultConfig, inv_construct⟩

theorem hostConstruct_of_length_ne {settings : Config} {font : List Byte} (h : font.length ≠ 80) :
    hostConstruct settings font = none := by
  rw [hostConstruct, dif_neg h]

theorem hostConstruct_of_length_eq (settings : Config) {font : List Byte} (h : font.length = 80) :
    hostConstruct settings font = some (State.construct { settings with font := ⟨font.toArray, by simpa using h⟩ }) := by
  rw [hostConstruct, dif_pos h]

/-- Settles O3: the check on the length, then the bytes of a constructed memory: the font at 0x050, 0x00 elsewhere. -/
theorem constructNeedsEightyFontBytes : Obligations.ConstructNeedsEightyFontBytes := by
  refine fun settings font => ⟨hostConstruct_of_length_ne, fun hlen =>
    ⟨_, hostConstruct_of_length_eq settings hlen, rfl, inv_construct _, fun k hk => ?_, fun a _ hout => ?_⟩⟩
  · rw [peek_construct, unlisted_font _ ⟨k, hk⟩, List.getElem?_eq_getElem (hlen ▸ hk)]
    rfl
  · rw [peek_construct, unlisted_outside_font _ hout]

/-! ### `load` -/

theorem placeBytes_cons (a : Nat) (b : Byte) (bs : List Byte) (s : State) :
    placeBytes a (b :: bs) s = placeBytes (a + 1) bs (s.poke a b) := rfl

theorem peek_placeBytes_outside {a d : Nat} {bs : List Byte} (s : State) (h : d < a ∨ a + bs.length ≤ d) :
    (placeBytes a bs s).peek d = s.peek d := by
  induction bs generalizing a s with
  | nil => rfl
  | cons b bs ih =>
    rw [List.length_cons] at h
    rw [placeBytes_cons, ih _ (by omega), peek_poke_ne _ _ (by omega)]

theorem peek_placeBytes_inside {a k : Nat} {bs : List Byte} (s : State) (hk : k < bs.length) :
    some ((placeBytes a bs s).peek (a + k)) = bs[k]? := by
  induction bs generalizing a k s with
  | nil => simp at hk
  | cons b bs ih =>
    rw [placeBytes_cons]
    cases k with
    | zero => rw [peek_placeBytes_outside _ (by omega), Nat.add_zero, peek_poke_self, List.getElem?_cons_zero]
    | succ k =>
      rw [List.length_cons] at hk
      rw [List.getElem?_cons_succ, ← ih (a := a + 1) (s.poke a b) (by omega), Nat.add_right_comm, Nat.add_assoc]

theorem placeBytes_unchanged (a : Nat) (bs : List Byte) (s : State) : UnchangedExcept [.mem] s (placeBytes a bs s) := by
  induction bs generalizing a s with
  | nil => exact unchanged_refl _ s
  | cons b bs ih => exact (poke_unchanged s a b).trans (ih (a + 1) _)

/-- Bytes placed below 0x1000 keep the invariant. -/
theorem placeBytes_keeps_inv {a : Nat} {bs : List Byte} {s : State} (h : s.Inv) (hin : a + bs.length ≤ 4096) :
    (placeBytes a bs s).Inv := by
  induction bs generalizing a s with
  | nil => exact h
  | cons b bs ih =>
    rw [List.length_cons] at hin
    exact ih ⟨wf_write s.cfg s.mem a b h.1 (by omega), h.2⟩ (by omega)

theorem hostLoad_empty {image : List Byte} (bound : Nat) (s : State) (h : image.length = 0) : hostLoad image bound s = none := by
  rw [hostLoad, if_pos h]

theorem hostLoad_oversize {image : List Byte} {bound : Nat} (s : State) (h : min bound 3584 < image.length) :
    hostLoad image bound s = none := by
  rw [hostLoad, if_neg (by omega), if_pos h]

theorem hostLoad_fitting {image : List Byte} {bound : Nat} (s : State) (h0 : 0 < image.length)
    (h : image.length ≤ min bound 3584) : hostLoad image bound s = some (placeBytes 0x200 image s) := by
  rw [hostLoad, if_neg (by omega), if_neg (by omega)]

/-- Settles O4: the two failing lengths, and otherwise bytes placed from 0x200 up, which end below 0x1000. -/
theorem loadPlacesTheImageOrFails : Obligations.LoadPlacesTheImageOrFails := by
  refine fun image bound s => ⟨hostLoad_empty bound s, hostLoad_oversize s, fun h0 hlen =>
    ⟨_, hostLoad_fitting s h0 hlen, fun k hk => peek_placeBytes_inside s hk, fun a ha => peek_placeBytes_outside s ha,
      placeBytes_unchanged 0x200 image s, fun hinv => placeBytes_keeps_inv hinv ?_⟩⟩
  omega

/-! ### The pixel word -/

/-- Settles O26: all ones for ON, zero for OFF, read bit by bit. -/
theorem hostPixelWordIsAllOnesOrZero : Obligations.HostPixelWordIsAllOnesOrZero := by
  intro s p k hk
  cases hp : s.pixel p with
  | true => simp [hostPixelWord, hp, hk]
  | false => simp [hostPixelWord, hp]

end Sys2Proof.Machine
end

section
/-! PROOFS. The statements on the fetch: the word and the fault of a fetch (20_memory.md R54, R56; 30_encoding.md R84, R85), a
placed word, a store seen by the next fetch (20_memory.md R65), and the self-jump (70_reset_and_hazards.md R331). -/

namespace Sys2Proof.Machine

/-! ### The two bytes fetched -/

theorem fetchHi_fst (s : State) : (fetchHi s).1 = s.byteAt s.pc.toNat := fetchRead_fst _ s

theorem fetchLo_fst (s : State) : (fetchLo s).1 = s.byteAt (s.pc.toNat + 1) := by
  have hkeep : ∀ a, (fetchHi s).2.peek a = s.peek a := peek_congr (fetchRead_mem _ s) (fetchRead_cfg _ s)
  rw [← byteAt_congr hkeep]
  exact fetchRead_fst _ _

theorem fetchWord_eq (s : State) : fetchWord s = wordOf (s.byteAt s.pc.toNat) (s.byteAt (s.pc.toNat + 1)) := by
  rw [fetchWord, fetchHi_fst, fetchLo_fst]

/-- The fetch reads `pc` and memory alone. -/
theorem fetchWord_congr {s t : State} (hpc : t.pc = s.pc) (hmem : ∀ a, t.peek a = s.peek a) : fetchWord t = fetchWord s := by
  rw [fetchWord_eq, fetchWord_eq, hpc, byteAt_congr hmem, byteAt_congr hmem]

theorem fetchRead_unchanged (a : Nat) (s : State) : UnchangedExcept [.fault] s (fetchRead a s).2 := by
  by_cases ha : a ≤ 0xFFF
  · rw [fetchRead_in ha]; exact unchanged_refl _ s
  · rw [fetchRead_out ha]; exact raise_unchanged _ s

theorem withOpcodePc_unchanged (s : State) (w pc : Word) :
    UnchangedExcept [.opcode, .pc] s { s with opcode := w, pc := pc } := by
  intro p hp
  cases p with
  | opcode | pc => simp at hp
  | V | stack | mem | video | keys => exact fun _ => rfl
  | I | sp | DT | ST | fault | cfg | randIn | draws => rfl

theorem fetchAdvance_unchanged (s : State) : UnchangedExcept [.opcode, .pc, .fault] s (fetchAdvance s) := by
  have hreads : UnchangedExcept [.fault] s (fetchLo s).2 := (fetchRead_unchanged _ s).trans (fetchRead_unchanged _ _)
  exact (hreads.mono (by simp)).trans ((withOpcodePc_unchanged _ _ _).mono (by simp))

/-- Settles O13: the two bytes, the advance, the fault of the higher address, and the frame. -/
theorem fetchIsBigEndianAndZeroPastMemory : Obligations.FetchIsBigEndianAndZeroPastMemory := by
  refine fun s => ⟨?_, rfl, BitVec.toNat_add s.pc 2, ?_, fetchAdvance_unchanged s⟩
  · rw [fetchWord_eq, wordOf_toNat]
  · exact (fetchAdvance_records s).fault_eq_ite (by omega)

/-! ### A placed word (log entry 7) -/

theorem byteAt_in {a : Nat} (h : a ≤ 0xFFF) (s : State) : s.byteAt a = s.peek a := if_pos h

/-- The two bytes at `pc`, inside memory, are the word the next fetch reads. -/
theorem fetchWord_of_bytes {s : State} {a : Nat} {hi lo : Byte} (hhi : s.peek a = hi) (hlo : s.peek (a + 1) = lo)
    (hpc : s.pc.toNat = a) (hin : a + 1 ≤ 0xFFF) : fetchWord s = wordOf hi lo := by
  rw [fetchWord_eq, hpc, byteAt_in (by omega), byteAt_in hin, hhi, hlo]

theorem fetchWord_poke_poke {s : State} (hin : s.pc.toNat + 1 ≤ 0xFFF) (w : Word) :
    fetchWord ((s.poke s.pc.toNat (highByte w)).poke (s.pc.toNat + 1) (lowByteOf w)) = w := by
  have hhi : ((s.poke s.pc.toNat (highByte w)).poke (s.pc.toNat + 1) (lowByteOf w)).peek s.pc.toNat = highByte w := by
    rw [peek_poke_ne _ _ (Nat.lt_succ_self _).ne, peek_poke_self]
  rw [fetchWord_of_bytes hhi (peek_poke_self _ _ _) rfl hin, wordOf_high_low]

/-- Settles O25: the word stands at `pc`, or at 0x200 where `pc` leaves no room for it. -/
theorem placedWordIsTheNextInstruction : Obligations.PlacedWordIsTheNextInstruction := by
  intro s w
  have hword : BitVec.ofNat 16 (w % 2 ^ 16) = BitVec.ofNat 16 w := by
    apply BitVec.eq_of_toNat_eq
    simp
  rw [fetchedInstr, State.withFetchWord, hword]
  have hstart : (0x0200#16).toNat + 1 ≤ 0xFFF := by decide
  by_cases hroom : s.pc.toNat ≤ 0xFFE
  · rw [if_pos hroom, fetchWord_poke_poke (by omega)]
  · rw [if_neg hroom, fetchWord_poke_poke (s := s.setPc 0x0200) hstart]

/-! ### The self-jump (the spec's decision D31) -/

/-- The operand of a fetched jump is the low 12 bits of the word. -/
theorem fetchWord_of_jp {s : State} {nnn : Addr} (h : fetchedInstr s = .jp nnn) : nnn.toNat = (fetchWord s).toNat % 4096 := by
  have hfields := decodedOperandsAreTheFields (fetchWord s)
  rwa [show decodeWord (fetchWord s) = .jp nnn from h] at hfields

/-- A self-jump lies in memory with both its bytes: at 0xFFF its low byte would read as 0x00, which no NNN of 0xFFF ends in. -/
theorem selfJump_in_memory {s : State} (h : s.AtSelfJump) : s.pc.toNat + 1 ≤ 0xFFF := by
  obtain ⟨nnn, hjp, hself⟩ := h
  have hword := fetchWord_of_jp hjp
  rw [fetchWord_eq, wordOf_toNat] at hword
  by_contra hout
  have hlow : (s.byteAt (s.pc.toNat + 1)).toNat = 0 := congrArg BitVec.toNat (if_neg hout)
  omega

/-- At a self-jump the fetch records nothing and the jump goes back to where it was fetched. -/
theorem step_at_selfJump {s : State} (h : s.AtSelfJump) : step s = .next (finishStep { s with opcode := fetchWord s }) := by
  have hin := selfJump_in_memory h
  obtain ⟨nnn, hjp, hself⟩ := h
  have hpc : zextAddr nnn = s.pc := BitVec.eq_of_toNat_eq ((zextAddr_toNat nnn).trans hself)
  apply step_of_exec
  rw [hjp, exec_jp, hpc, (fetch_in hin).2]
  rfl

theorem withOpcode_unchanged (s : State) (w : Word) : UnchangedExcept [.opcode] s { s with opcode := w } := by
  intro p hp
  cases p with
  | opcode => simp at hp
  | V | stack | mem | video | keys => exact fun _ => rfl
  | I | pc | sp | DT | ST | fault | cfg | randIn | draws => rfl

theorem State.AtSelfJump.congr {s t : State} (h : s.AtSelfJump) (hpc : t.pc = s.pc) (hmem : ∀ a, t.peek a = s.peek a) :
    t.AtSelfJump := by
  obtain ⟨nnn, hjp, hself⟩ := h
  exact ⟨nnn, by rw [fetchedInstr, fetchWord_congr hpc hmem, ← hjp, fetchedInstr], by rw [hpc, hself]⟩

/-- Settles O23: the step is a write of `opcode` and the tick, which leave `pc` and memory, and so the self-jump. -/
theorem selfJumpChangesOnlyTimersAndOpcode : Obligations.SelfJumpChangesOnlyTimersAndOpcode := by
  intro s h
  refine ⟨_, step_at_selfJump h, h.congr rfl fun _ => rfl, rfl, ?_⟩
  exact ((withOpcode_unchanged s _).mono (by simp)).trans ((finishStep_unchanged _).mono (by simp))

/-! ### A store seen by the next fetch (20_memory.md R65) -/

/-- A step of FX55 stores into the state the fetch left. -/
theorem step_ldMemVx {s : State} {x : Reg} (hfetch : fetchedInstr s = .ldMemVx x) : ∃ t, step s = .next t ∧
    t.opcode = fetchWord s ∧ t.pc = s.pc + 2 ∧
    ∀ r : Reg, r ≤ x → s.I.toNat + r.val ≤ 0xFFF → t.peek (s.I.toNat + r.val) = s.reg r := by
  have hexec := exec_ldMemVx x (fetchAdvance s)
  rw [← hfetch] at hexec
  refine ⟨_, step_of_exec hexec, storeRegs_opcode _ _ _, storeRegs_pc _ _ _, fun r hr hin => ?_⟩
  have hbase : (fetchAdvance s).effAddr 0 = s.I.toNat := congrArg BitVec.toNat (fetchAdvance_I s)
  rw [hbase, ← reg_fetchAdvance s r]
  exact peek_storeRegs_of_mem _ ((mem_regsThrough x r).2 hr) hin

/-- Settles O24: V0 and V1 stand at the advanced `pc`, where the next fetch reads. -/
theorem storesAreSeenByTheNextFetch : Obligations.StoresAreSeenByTheNextFetch := by
  intro s x hfetch hI hin
  obtain ⟨t, hstep, hopcode, hpc, hstored⟩ := step_ldMemVx hfetch
  have hpcI : t.pc = s.I := hpc.trans hI.symm
  have hV0 : t.peek s.I.toNat = s.reg 0 := hstored 0 (Fin.zero_le x) (Nat.le_of_succ_le hin)
  refine ⟨t, hstep, hopcode, ?_, fun hx => ?_⟩
  · rw [fetchHi_fst, hpcI, byteAt_in (by omega), hV0]
  · have hV1 : t.peek (s.I.toNat + 1) = s.reg 1 := hstored 1 hx hin
    rw [fetchedInstr, fetchWord_of_bytes hV0 hV1 (congrArg BitVec.toNat hpcI) hin]

end Sys2Proof.Machine
end

section
/-! PROOFS. The statements of 41_control_flow.md on the return stack: RET (R140) and CALL (R142), and W4 of 95_test_vectors.md. -/

namespace Sys2Proof.Machine

/-- RET with `k + 1` entries returns to the entry at `k`. -/
theorem ret_pops {s : State} {k : Fin 16} (h : s.sp.val = k.val + 1) :
    ∃ t, exec .ret s = .next t ∧ t.sp.val = k.val ∧ t.pc = s.stack[k.val] ∧ UnchangedExcept [.sp, .pc] s t := by
  have htop : s.sp.val - 1 = k.val := by omega
  refine ⟨_, exec_ret_some (by omega), htop, ?_, pop_unchanged s _ _⟩
  simp only [htop]

/-- Settles O30: the dispatch of group 0, then RET on an empty and on a filled stack. -/
theorem retPopsOrRecordsUnderflow : Obligations.RetPopsOrRecordsUnderflow := by
  refine ⟨fun w hgroup hnibble => ?_, fun s => ⟨fun hempty => ?_, fun k => ret_pops⟩⟩
  · rw [decodeWord_group0 hgroup, decodeGroup0_ret hnibble]
  · exact ⟨_, exec_ret_empty hempty, rfl, raise_unchanged _ s⟩

/-- CALL with `k` entries pushes the advanced `pc` as entry `k`. -/
theorem call_pushes {s : State} {k : Fin 16} (nnn : Addr) (h : s.sp.val = k.val) :
    ∃ t, exec (.call nnn) s = .next t ∧ t.stack[k.val] = s.pc ∧ (∀ j : Fin 16, j ≠ k → t.stack[j.val] = s.stack[j.val]) ∧
      t.sp.val = k.val + 1 ∧ t.pc.toNat = nnn.toNat ∧ UnchangedExcept [.stack, .sp, .pc] s t := by
  refine ⟨_, exec_call_room nnn (h ▸ k.isLt), ?_, fun j hj => ?_, congrArg (· + 1) h, zextAddr_toNat nnn,
    push_unchanged s _ _ _⟩
  · simp only [h, Vector.getElem_set_self]
  · have hne : k.val ≠ j.val := fun e => hj (Fin.ext e.symm)
    simp only [h, Vector.getElem_set_ne _ _ hne]

/-- Settles O31: the dispatch of group 2, then CALL on a full stack and on one with room. -/
theorem callPushesOrRecordsOverflow : Obligations.CallPushesOrRecordsOverflow := by
  refine ⟨fun w hgroup => ⟨_, decodeWord_group2 hgroup, fieldNnn_toNat w⟩,
    fun s nnn => ⟨fun hfull => ?_, fun k => call_pushes nnn⟩⟩
  exact ⟨_, exec_call_full nnn hfull, rfl, raise_unchanged _ s⟩

/-- Settles O32: the entry the CALL pushed is the one the RET pops. -/
theorem retReturnsBehindTheCall : Obligations.RetReturnsBehindTheCall := by
  intro s nnn hroom
  obtain ⟨t, hcall, hentry, -, hsp, -⟩ := call_pushes (k := ⟨s.sp.val, hroom⟩) nnn rfl
  refine ⟨t, hcall, fun u husp hustack => ?_⟩
  obtain ⟨v, hret, hvsp, hvpc, -⟩ := ret_pops (s := u) (k := ⟨s.sp.val, hroom⟩) (husp ▸ hsp)
  exact ⟨v, hret, hvpc.trans ((hustack _).trans hentry), Fin.ext hvsp⟩

end Sys2Proof.Machine
end

section
/-! PROOFS. The statement of 42_register_immediate.md on RND (R173). -/

namespace Sys2Proof.Machine

theorem exec_rndVxNn (x : Reg) (nn : Byte) (s : State) :
    exec (.rndVxNn x nn) s = .next (s.setReg x (s.rand &&& nn)) := rfl

/-- A step(rand) of RND uses the byte it is given: the fetch reads no random byte. -/
theorem stepWith_rndVxNn {s : State} {x : Reg} {nn : Byte} (rand : Byte) (hfetch : fetchedInstr s = .rndVxNn x nn) :
    stepWith rand s = .next (finishStep ((fetchAdvance { s with randIn := some rand }).setReg x (rand &&& nn))) := by
  have hsame : fetchedInstr { s with randIn := some rand } = fetchedInstr s :=
    congrArg decodeWord (fetchWord_congr rfl fun _ => rfl)
  have hrand : (fetchAdvance { s with randIn := some rand }).rand = rand := by
    simp [State.rand]
  apply step_of_exec
  rw [hsame, hfetch, exec_rndVxNn, hrand]

/-- Settles O35: the dispatch of group C, a write to one register alone, and the same write in a step(rand). -/
theorem rndMasksTheRandomByte : Obligations.RndMasksTheRandomByte := by
  refine ⟨fun w hgroup => ⟨_, _, decodeWord_groupC hgroup, fieldX_val w, fieldNn_toNat w⟩,
    fun s x nn => exec_writes_one_register (exec_rndVxNn x nn s), fun s rand x nn hfetch => ?_⟩
  refine ⟨_, stepWith_rndVxNn rand hfetch, ?_, fun r hr => ?_⟩
  · rw [reg_finishStep, reg_setReg_self]
  · rw [reg_finishStep, reg_setReg_ne _ _ hr, reg_fetchAdvance]
    rfl

end Sys2Proof.Machine
end

section
/-! PROOFS. The statements of 43_alu.md on the operations with a flag: ADD (R194), SUB and SUBN (R195, R197), SHR and SHL (R196,
R198). -/

namespace Sys2Proof.Machine

/-! ### The flag as a number -/

theorem flagByte_toNat (b : Bool) : (flagByte b).toNat = b.toNat := by
  cases b <;> rfl

theorem carryOut_toNat (a b : Byte) : (flagByte (carryOut a b)).toNat = if 255 < a.toNat + b.toNat then 1 else 0 := by
  rw [flagByte_toNat, carryOut, Bool.toNat, Bool.cond_decide]

theorem noBorrow_toNat (a b : Byte) : (flagByte (noBorrow a b)).toNat = if b.toNat ≤ a.toNat then 1 else 0 := by
  rw [flagByte_toNat, noBorrow, Bool.toNat, Bool.cond_decide]

theorem shiftedOutRight_toNat (a : Byte) : (flagByte (shiftedOutRight a)).toNat = a.toNat % 2 := by
  rw [flagByte_toNat, shiftedOutRight, BitVec.getLsbD, Nat.toNat_testBit]
  omega

theorem shiftedOutLeft_toNat (a : Byte) : (flagByte (shiftedOutLeft a)).toNat = a.toNat / 128 := by
  rw [flagByte_toNat, shiftedOutLeft, BitVec.getLsbD, Nat.toNat_testBit]
  omega

/-! ### The results as numbers -/

theorem sub_toNat (a b : Byte) : (a - b).toNat = (a.toNat + 256 - b.toNat) % 256 := by
  rw [BitVec.toNat_sub]
  omega

theorem shiftRight_one_toNat (a : Byte) : (a >>> 1).toNat = a.toNat / 2 := by
  rw [BitVec.toNat_ushiftRight, Nat.shiftRight_eq_div_pow]

theorem shiftLeft_one_toNat (a : Byte) : (a <<< 1).toNat = a.toNat * 2 % 256 := by
  rw [BitVec.toNat_shiftLeft, Nat.shiftLeft_eq]

/-! ### What the instructions do -/

theorem exec_addVxVy (x y : Reg) (s : State) : exec (.addVxVy x y) s =
    .next (s.setResultThenFlag x (s.reg x + s.reg y) (carryOut (s.reg x) (s.reg y))) := rfl

theorem exec_subVxVy (x y : Reg) (s : State) : exec (.subVxVy x y) s =
    .next (s.setResultThenFlag x (s.reg x - s.reg y) (noBorrow (s.reg x) (s.reg y))) := rfl

theorem exec_subnVxVy (x y : Reg) (s : State) : exec (.subnVxVy x y) s =
    .next (s.setResultThenFlag x (s.reg y - s.reg x) (noBorrow (s.reg y) (s.reg x))) := rfl

theorem exec_shrVxVy (x y : Reg) (s : State) : exec (.shrVxVy x y) s =
    .next (s.setResultThenFlag x (s.shiftOperand x y >>> 1) (shiftedOutRight (s.shiftOperand x y))) := rfl

theorem exec_shlVxVy (x y : Reg) (s : State) : exec (.shlVxVy x y) s =
    .next (s.setResultThenFlag x (s.shiftOperand x y <<< 1) (shiftedOutLeft (s.shiftOperand x y))) := rfl

/-- An instruction that answers a result and a flag writes V[X] and VF alone; with X = 0xF the flag wins (R199). -/
theorem exec_writes_result_and_flag {i : Instr} {s : State} {x : Reg} {b : Byte} {f : Bool} {result flag : Nat}
    (hexec : exec i s = .next (s.setResultThenFlag x b f)) (hflag : (flagByte f).toNat = flag) (hresult : b.toNat = result) :
    ∃ t, exec i s = .next t ∧ (t.reg 15).toNat = flag ∧ (x ≠ 15 → (t.reg x).toNat = result) ∧
      (∀ r, r ≠ x → r ≠ 15 → t.reg r = s.reg r) ∧ UnchangedExcept [.V] s t := by
  refine ⟨_, hexec, ?_, fun hx => ?_, fun r hrx hrF => ?_, setResultThenFlag_unchanged s x b f⟩
  · rw [reg_setResultThenFlag, if_pos rfl, hflag]
  · rw [reg_setResultThenFlag, if_neg hx, if_pos rfl, hresult]
  · rw [reg_setResultThenFlag, if_neg hrF, if_neg hrx]

/-- Settles O37: the sum mod 256 and its carry. -/
theorem addSetsCarry : Obligations.AddSetsCarry :=
  fun s x y => exec_writes_result_and_flag (exec_addVxVy x y s) (carryOut_toNat _ _) (BitVec.toNat_add _ _)

/-- Settles O38: the two differences mod 256 and their borrows. -/
theorem subtractionsSetNoBorrow : Obligations.SubtractionsSetNoBorrow :=
  fun s x y => ⟨exec_writes_result_and_flag (exec_subVxVy x y s) (noBorrow_toNat _ _) (sub_toNat _ _),
    exec_writes_result_and_flag (exec_subnVxVy x y s) (noBorrow_toNat _ _) (sub_toNat _ _)⟩

/-- Settles O39: under either setting of SHIFT_SOURCE the operand is `shiftOperand`, shifted by one. -/
theorem shiftsSetTheBitShiftedOut : Obligations.ShiftsSetTheBitShiftedOut := by
  intro s x y src hsrc
  obtain rfl : src = s.shiftOperand x y := hsrc
  exact ⟨exec_writes_result_and_flag (exec_shrVxVy x y s) (shiftedOutRight_toNat _) (shiftRight_one_toNat _),
    exec_writes_result_and_flag (exec_shlVxVy x y s) (shiftedOutLeft_toNat _) (shiftLeft_one_toNat _)⟩

end Sys2Proof.Machine
end

section
/-! PROOFS. The statements of 44_keys_timers.md on the keys: SKP, SKNP (R220 to R222) and LD Vx, K (R224). -/

namespace Sys2Proof.Machine

/-! ### SKP and SKNP -/

theorem keyRead_of_index {b : Byte} {k : Fin 16} (h : b.toNat = k.val) (s : State) : keyRead b s = (s.key k, s) := by
  have hk : (⟨b.toNat, by omega⟩ : Fin 16) = k := Fin.ext h
  rw [keyRead_in (by omega), hk]

theorem exec_skp_of_index {s : State} {x : Reg} {k : Fin 16} (h : (s.reg x).toNat = k.val) :
    exec (.skp x) s = .next (s.skipIf (s.key k)) := by
  rw [exec_skp, keyRead_of_index h]

theorem exec_sknp_of_index {s : State} {x : Reg} {k : Fin 16} (h : (s.reg x).toNat = k.val) :
    exec (.sknp x) s = .next (s.skipIf (!s.key k)) := by
  rw [exec_sknp, keyRead_of_index h]

/-- An index above 15 reads as up: SKP does not skip. -/
theorem exec_skp_of_large {s : State} {x : Reg} (h : 15 < (s.reg x).toNat) :
    exec (.skp x) s = .next (s.raise .keyOob) := by
  rw [exec_skp, keyRead_out (by omega)]
  rfl

/-- An index above 15 reads as up: SKNP skips. -/
theorem exec_sknp_of_large {s : State} {x : Reg} (h : 15 < (s.reg x).toNat) :
    exec (.sknp x) s = .next (s.raise .keyOob).skip := by
  rw [exec_sknp, keyRead_out (by omega)]
  rfl

/-- Settles O40: an index up to 15 reads its key and changes `pc` alone; above 15 it records KEY_OOB and reads as up. -/
theorem keySkipsReadTheLatch : Obligations.KeySkipsReadTheLatch := by
  refine fun s x => ⟨fun k hk => ⟨?_, ?_⟩, fun hlarge => ⟨?_, ?_⟩⟩
  · exact ⟨_, exec_skp_of_index hk, skipIf_unchanged s _, skipIf_pc_toNat s _⟩
  · refine ⟨_, exec_sknp_of_index hk, skipIf_unchanged s _, ?_⟩
    rw [skipIf_pc_toNat]
    cases s.key k <;> rfl
  · exact ⟨_, exec_skp_of_large hlarge, rfl, raise_unchanged _ s⟩
  · refine ⟨_, exec_sknp_of_large hlarge, rfl, BitVec.toNat_add s.pc 2, ?_⟩
    exact ((raise_unchanged _ s).mono (by simp)).trans ((setPc_unchanged _ _).mono (by simp))

/-! ### LD Vx, K -/

/-- The lowest key that is down is the one found. -/
theorem firstKeyDown?_of_lowest {s : State} {k : Fin 16} (hdown : s.key k = true) (hlower : ∀ j, j < k → s.key j = false) :
    s.firstKeyDown? = some k := by
  rw [State.firstKeyDown?, List.find?_eq_some_iff_getElem]
  refine ⟨hdown, k.val, by simp, by simp, fun j hj => ?_⟩
  simpa using hlower ⟨j, by omega⟩ hj

theorem key_takeKey (x : Reg) (k : Fin 16) (s : State) (j : Fin 16) :
    (takeKey x k s).key j = if j = k ∧ s.cfg.fx0aClearsKey = true then false else s.key j := by
  cases h : s.cfg.fx0aClearsKey with
  | true =>
    rw [takeKey_clearing x k h, key_clearKey]
    simp only [and_true]
    rfl
  | false =>
    rw [takeKey_keeping x k h, if_neg (by simp)]
    rfl

theorem sub_two_toNat (w : Word) : (w - 2).toNat = (w.toNat + 65534) % 65536 := by
  rw [BitVec.toNat_sub, Nat.add_comm]
  rfl

/-- Settles O42: the lowest key taken, the wait as a write to `pc`, and the wait's whole step, which undoes the advance. -/
theorem waitForKeyTakesTheLowestKey : Obligations.WaitForKeyTakesTheLowestKey := by
  refine ⟨fun s x => ⟨fun k hdown hlower => ?_, fun hup => ?_⟩, fun s x hfetch hup => ?_⟩
  · refine ⟨_, exec_ldVxK_some x (firstKeyDown?_of_lowest hdown hlower), ?_, fun r hr => ?_, ?_, fun j hj => ?_,
      takeKey_unchanged x k s⟩
    · rw [reg_takeKey, if_pos rfl, BitVec.toNat_ofNat, Nat.mod_eq_of_lt (by omega)]
    · rw [reg_takeKey, if_neg hr]
    · rw [key_takeKey, hdown]
      cases s.cfg.fx0aClearsKey <;> simp
    · rw [key_takeKey, if_neg fun h => hj h.1]
  · exact ⟨_, exec_ldVxK_none x ((firstKeyDown?_none s).2 hup), sub_two_toNat s.pc, setPc_unchanged s _⟩
  · have hup' : ∀ k, (fetchAdvance s).key k = false := fun k => (key_congr (fetchAdvance_keys s) k).trans (hup k)
    have hexec := exec_ldVxK_none x ((firstKeyDown?_none _).2 hup')
    rw [← hfetch] at hexec
    refine ⟨_, step_of_exec hexec, BitVec.add_sub_cancel s.pc 2, ?_⟩
    rw [finishStep_DT, tick_toNat, setPc_DT, fetchAdvance_DT]

end Sys2Proof.Machine
end

section
/-! PROOFS. The statements of 45_index_memory.md on memory: LD B, Vx (R252), LD [I], Vx (R253), LD Vx, [I] (R254), and W8 of
95_test_vectors.md. -/

namespace Sys2Proof.Machine

/-- Of the rising addresses `I` to `I + X` one is past memory exactly when the last is. -/
theorem exists_past_memory_iff (s : State) (x : Reg) :
    (∃ r ∈ regsThrough x, 0xFFF < s.effAddr 0 + r.val) ↔ ¬ s.effAddr x.val ≤ 0xFFF := by
  have hlast : s.effAddr x.val = s.effAddr 0 + x.val := rfl
  rw [exists_regsThrough_iff x (fun r => 0xFFF < s.effAddr 0 + r), hlast]
  constructor
  · rintro ⟨r, hr, h⟩
    omega
  · intro h
    exact ⟨x.val, le_rfl, by omega⟩

/-- Settles O44: three checked writes at `I`, `I + 1` and `I + 2`. -/
theorem bcdStoresThreeDigits : Obligations.BcdStoresThreeDigits := by
  intro s x
  have hreg := (s.reg x).isLt
  have haddr : ∀ k, s.effAddr k = s.effAddr 0 + k := fun _ => rfl
  refine ⟨_, exec_ldBVx x s, fun h0 => ?_, fun h1 => ?_, fun h2 => ?_, fun a ha => ?_, ?_, ?_⟩
  · rw [peek_memWrite, if_neg (by omega), peek_memWrite, if_neg (by omega), peek_memWrite, if_pos ⟨rfl, h0⟩,
      BitVec.toNat_ofNat, Nat.mod_eq_of_lt (by omega)]
  · rw [peek_memWrite, if_neg (by rw [haddr]; omega), peek_memWrite, if_pos ⟨rfl, h1⟩, BitVec.toNat_ofNat,
      Nat.mod_eq_of_lt (by omega)]
  · rw [peek_memWrite, if_pos ⟨rfl, h2⟩, BitVec.toNat_ofNat, Nat.mod_eq_of_lt (by omega)]
  · rw [haddr 2] at ha
    rw [peek_memWrite, if_neg (by omega), peek_memWrite, if_neg (by omega), peek_memWrite, if_neg (by omega)]
  · refine Records.fault_eq_ite (((memWrite_records _ _ _).trans (memWrite_records _ _ _)).trans (memWrite_records _ _ _)) ?_
    rw [haddr 2]
    omega
  · exact unchanged_of_exec (exec_ldBVx x s)

/-- Settles O45: the loop's bytes and its misses, the new `I`, and the one fault the last address decides. -/
theorem storeRegistersWritesV0ToVx : Obligations.StoreRegistersWritesV0ToVx := by
  intro s x
  refine ⟨_, exec_ldMemVx x s, fun r hr hin => peek_storeRegs_of_mem s ((mem_regsThrough x r).2 hr) hin,
    fun a ha => peek_storeRegs_of_ne s (ha.imp_right fun hne r hr => hne r ((mem_regsThrough x r).1 hr)),
    indexPlus_toNat s (x.val + 1), ?_, ?_⟩
  · exact Records.fault_eq_ite ((storeRegs_records _ _ s).congr_right rfl) (exists_past_memory_iff s x)
  · exact unchanged_of_exec (exec_ldMemVx x s)

/-- Settles O46: the loop's registers and the others, the new `I`, and the one fault the last address decides. -/
theorem loadRegistersReadsV0ToVx : Obligations.LoadRegistersReadsV0ToVx := by
  intro s x
  refine ⟨_, exec_ldVxMem x s, fun r hr => reg_loadRegs_of_mem s ((mem_regsThrough x r).2 hr),
    fun r hr => reg_loadRegs_of_not_mem s fun hmem => hr.not_ge ((mem_regsThrough x r).1 hmem),
    indexPlus_toNat s (x.val + 1), ?_, ?_⟩
  · exact Records.fault_eq_ite ((loadRegs_records _ _ s).congr_right rfl) (exists_past_memory_iff s x)
  · exact unchanged_of_exec (exec_ldVxMem x s)

/-- Settles O47: the load reads at the addresses the store wrote, all inside memory, and both add the same to `I`. -/
theorem loadGivesBackWhatStoreStored : Obligations.LoadGivesBackWhatStoreStored := by
  intro s x hin
  refine ⟨_, exec_ldMemVx x s, fun u hI hmem => ⟨_, exec_ldVxMem x u, ?_, fun r hr => ?_⟩⟩
  · show BitVec.ofNat 16 (u.I.toNat + (x.val + 1)) = BitVec.ofNat 16 (s.I.toNat + (x.val + 1))
    rw [hI]
  · have hbase : u.effAddr 0 = s.effAddr 0 := congrArg BitVec.toNat hI
    have hr16 : s.effAddr 0 + r.val ≤ 0xFFF := le_trans (Nat.add_le_add_left hr _) hin
    have hthrough := (mem_regsThrough x r).2 hr
    rw [reg_setI, reg_loadRegs_of_mem u hthrough, hbase, byteAt_in hr16, hmem, peek_setI,
      peek_storeRegs_of_mem s hthrough hr16]

end Sys2Proof.Machine
end

section
/-! SUPPORT. The drawing loop of 40_display.md R121 as one list of pixels, toggled one after the other. -/

namespace Sys2Proof.Machine

/-! ### Toggling a list of pixels -/

/-- Toggles the pixels of the list in turn, and says whether one of them was ON when its turn came (R124). -/
def toggleAll (ps : List (Fin 2048)) (d : Screen × Bool) : Screen × Bool :=
  ps.foldl (fun d p => (d.1.toggle p, d.2 || d.1.pixel p)) d

theorem toggleAll_cons (p : Fin 2048) (ps : List (Fin 2048)) (d : Screen × Bool) :
    toggleAll (p :: ps) d = toggleAll ps (d.1.toggle p, d.2 || d.1.pixel p) := rfl

theorem toggleAll_append (ps qs : List (Fin 2048)) (d : Screen × Bool) :
    toggleAll (ps ++ qs) d = toggleAll qs (toggleAll ps d) :=
  List.foldl_append

/-- Of a list without repetition every pixel is toggled once, and no other is. -/
theorem pixel_toggleAll {ps : List (Fin 2048)} (hps : ps.Nodup) (d : Screen × Bool) (q : Fin 2048) :
    (toggleAll ps d).1.pixel q = if q ∈ ps then !d.1.pixel q else d.1.pixel q := by
  induction ps generalizing d with
  | nil => simp [toggleAll]
  | cons p ps ih =>
    obtain ⟨hp, hps⟩ := List.nodup_cons.1 hps
    rw [toggleAll_cons, ih hps, pixel_toggle]
    by_cases hq : q = p
    · subst hq
      simp [hp]
    · simp [hq]

/-- Of a list without repetition a pixel is ON at its turn exactly when it was ON at first. -/
theorem flag_toggleAll {ps : List (Fin 2048)} (hps : ps.Nodup) (d : Screen × Bool) :
    (toggleAll ps d).2 = true ↔ d.2 = true ∨ ∃ p ∈ ps, d.1.pixel p = true := by
  induction ps generalizing d with
  | nil => simp [toggleAll]
  | cons p ps ih =>
    obtain ⟨hp, hps⟩ := List.nodup_cons.1 hps
    have hkeep : ∀ q ∈ ps, (d.1.toggle p).pixel q = d.1.pixel q := by
      intro q hq
      have hne : q ≠ p := fun e => hp (e ▸ hq)
      rw [pixel_toggle, if_neg hne]
    have hrest : (∃ q ∈ ps, (d.1.toggle p).pixel q = true) ↔ ∃ q ∈ ps, d.1.pixel q = true :=
      exists_congr fun q => and_congr_right fun hq => by rw [hkeep q hq]
    rw [toggleAll_cons, ih hps, hrest]
    simp [or_assoc]

/-! ### The pixels of a sprite -/

/-- The pixel that row `r` and column `c` of a sprite toggle: none where the bit is 0 or the pixel is clipped. -/
def State.spriteBit? (s : State) (x0 y0 r c : Nat) : Option (Fin 2048) :=
  if (s.byteAt (s.I.toNat + r)).getLsbD (7 - c) then pixelIndex? s.cfg.drawEdge (x0 + c) (y0 + r) else none

/-- The pixels row `r` of a sprite toggles, left to right. -/
def State.rowPixels (s : State) (x0 y0 r : Nat) : List (Fin 2048) := (List.range 8).filterMap (s.spriteBit? x0 y0 r)

/-- The pixels the first `n` rows of a sprite toggle, top to bottom. -/
def State.spritePixels (s : State) (x0 y0 n : Nat) : List (Fin 2048) := (List.range n).flatMap (s.rowPixels x0 y0)

/-- A column of row `r` toggles the pixel `spriteBit?` names. The byte drawn and the edge policy are those of `s`. -/
theorem drawColumn_eq_toggleAll {s : State} {x0 y0 r c : Nat} {d : State × Bool} (hcfg : d.1.cfg = s.cfg) :
    ((drawColumn x0 (y0 + r) (s.byteAt (s.I.toNat + r)) d c).1.video, (drawColumn x0 (y0 + r) (s.byteAt (s.I.toNat + r)) d c).2) =
      toggleAll (s.spriteBit? x0 y0 r c).toList (d.1.video, d.2) := by
  cases hbit : (s.byteAt (s.I.toNat + r)).getLsbD (7 - c) with
  | false => simp [drawColumn, State.spriteBit?, hbit, toggleAll]
  | true =>
    cases hp : pixelIndex? s.cfg.drawEdge (x0 + c) (y0 + r) with
    | none => simp [drawColumn, State.spriteBit?, hbit, hcfg, hp, toggleAll]
    | some p => simp [drawColumn, State.spriteBit?, hbit, hcfg, hp, toggleAll, State.pixel]

theorem foldl_drawColumn_eq_toggleAll {s : State} {x0 y0 r : Nat} (cs : List Nat) {d : State × Bool} (hcfg : d.1.cfg = s.cfg) :
    ((cs.foldl (drawColumn x0 (y0 + r) (s.byteAt (s.I.toNat + r))) d).1.video,
      (cs.foldl (drawColumn x0 (y0 + r) (s.byteAt (s.I.toNat + r))) d).2) =
      toggleAll (cs.filterMap (s.spriteBit? x0 y0 r)) (d.1.video, d.2) := by
  induction cs generalizing d with
  | nil => rfl
  | cons c cs ih =>
    rw [List.foldl_cons, ih ((drawColumn_cfg _ _ _ d c).trans hcfg), drawColumn_eq_toggleAll hcfg, ← toggleAll_append]
    cases h : s.spriteBit? x0 y0 r c with
    | none => rw [List.filterMap_cons_none h, Option.toList_none, List.nil_append]
    | some p => rw [List.filterMap_cons_some h, Option.toList_some, List.singleton_append]

theorem drawRow_eq_toggleAll {s : State} {x0 y0 r : Nat} {d : State × Bool} (hcfg : d.1.cfg = s.cfg) (hmem : d.1.mem = s.mem) :
    ((drawRow s.I.toNat x0 y0 d r).1.video, (drawRow s.I.toNat x0 y0 d r).2) =
      toggleAll (s.rowPixels x0 y0 r) (d.1.video, d.2) := by
  have hbyte : (memRead (s.I.toNat + r) d.1).1 = s.byteAt (s.I.toNat + r) := by
    rw [memRead_fst_eq_byteAt, byteAt_congr (peek_congr hmem hcfg)]
  rw [drawRow, hbyte, foldl_drawColumn_eq_toggleAll _ ((memRead_cfg _ d.1).trans hcfg), memRead_video, State.rowPixels]

/-- The whole loop toggles the sprite's pixels in turn: no row changes the bytes or the policy of the next. -/
theorem drawSprite_eq_toggleAll (s : State) (x0 y0 n : Nat) :
    ((drawSprite s.I.toNat x0 y0 n s).1.video, (drawSprite s.I.toNat x0 y0 n s).2) =
      toggleAll (s.spritePixels x0 y0 n) (s.video, false) := by
  have hrows : ∀ (rs : List Nat) (d : State × Bool), d.1.cfg = s.cfg → d.1.mem = s.mem →
      ((rs.foldl (drawRow s.I.toNat x0 y0) d).1.video, (rs.foldl (drawRow s.I.toNat x0 y0) d).2) =
        toggleAll (rs.flatMap (s.rowPixels x0 y0)) (d.1.video, d.2) := by
    intro rs
    induction rs with
    | nil => exact fun _ _ _ => rfl
    | cons r rs ih =>
      intro d hcfg hmem
      rw [List.foldl_cons, ih _ ((drawRow_cfg _ _ _ d r).trans hcfg) ((drawRow_mem _ _ _ d r).trans hmem),
        drawRow_eq_toggleAll hcfg hmem, ← toggleAll_append, List.flatMap_cons]
  exact hrows (List.range n) (s, false) rfl rfl

theorem drawSprite_video (s : State) (x0 y0 n : Nat) :
    (drawSprite s.I.toNat x0 y0 n s).1.video = (toggleAll (s.spritePixels x0 y0 n) (s.video, false)).1 :=
  congrArg Prod.fst (drawSprite_eq_toggleAll s x0 y0 n)

theorem drawSprite_flag (s : State) (x0 y0 n : Nat) :
    (drawSprite s.I.toNat x0 y0 n s).2 = (toggleAll (s.spritePixels x0 y0 n) (s.video, false)).2 :=
  congrArg Prod.snd (drawSprite_eq_toggleAll s x0 y0 n)

/-! ### Which pixels those are, and that no two bits share one -/

/-- A pixel index as a point, under either edge policy (R122). -/
theorem pixelIndex?_eq_some (e : DrawEdge) (px py : Nat) (p : Fin 2048) : pixelIndex? e px py = some p ↔
    (match e with
     | .clip => px = p.val % 64 ∧ py = p.val / 64
     | .wrap => px % 64 = p.val % 64 ∧ py % 32 = p.val / 64) := by
  have hp := p.isLt
  cases e with
  | wrap =>
    simp only [pixelIndex?, Option.some.injEq, Fin.ext_iff]
    omega
  | clip =>
    simp only [pixelIndex?, Option.dite_none_right_eq_some, Option.some.injEq, Fin.ext_iff]
    constructor
    · rintro ⟨hin, h⟩
      omega
    · intro h
      exact ⟨by omega, by omega⟩

theorem spriteBit?_eq_some (s : State) (x0 y0 r c : Nat) (p : Fin 2048) : s.spriteBit? x0 y0 r c = some p ↔
    (s.byteAt (s.I.toNat + r)).getLsbD (7 - c) = true ∧
    (match s.cfg.drawEdge with
     | .clip => x0 + c = p.val % 64 ∧ y0 + r = p.val / 64
     | .wrap => (x0 + c) % 64 = p.val % 64 ∧ (y0 + r) % 32 = p.val / 64) := by
  rw [State.spriteBit?, Option.ite_none_right_eq_some, pixelIndex?_eq_some]

/-- Eight columns and at most 15 rows are too few for two bits to meet, even wrapped mod 64 and mod 32. -/
theorem spriteBit?_inj {s : State} {x0 y0 r r' c c' : Nat} {p : Fin 2048} (hr : r < 16) (hr' : r' < 16) (hc : c < 8)
    (hc' : c' < 8) (h : s.spriteBit? x0 y0 r c = some p) (h' : s.spriteBit? x0 y0 r' c' = some p) : r = r' ∧ c = c' := by
  have hpoint := ((spriteBit?_eq_some ..).1 h).2
  have hpoint' := ((spriteBit?_eq_some ..).1 h').2
  cases he : s.cfg.drawEdge with
  | clip =>
    simp only [he] at hpoint hpoint'
    omega
  | wrap =>
    simp only [he] at hpoint hpoint'
    omega

theorem mem_rowPixels {s : State} {x0 y0 r : Nat} {p : Fin 2048} :
    p ∈ s.rowPixels x0 y0 r ↔ ∃ c < 8, s.spriteBit? x0 y0 r c = some p := by
  simp [State.rowPixels]

theorem mem_spritePixels {s : State} {x0 y0 n : Nat} {p : Fin 2048} :
    p ∈ s.spritePixels x0 y0 n ↔ ∃ r < n, ∃ c < 8, s.spriteBit? x0 y0 r c = some p := by
  simp [State.spritePixels, mem_rowPixels]

theorem rowPixels_nodup {s : State} {x0 y0 r : Nat} (hr : r < 16) : (s.rowPixels x0 y0 r).Nodup := by
  rw [State.rowPixels, List.Nodup, List.pairwise_filterMap]
  refine List.nodup_range.imp_of_mem fun hc hc' hne p hp q hq he => hne ?_
  subst he
  exact (spriteBit?_inj hr hr (List.mem_range.1 hc) (List.mem_range.1 hc') hp hq).2

theorem spritePixels_nodup {s : State} {x0 y0 n : Nat} (hn : n ≤ 16) : (s.spritePixels x0 y0 n).Nodup := by
  rw [State.spritePixels, List.nodup_flatMap]
  refine ⟨fun r hr => rowPixels_nodup ((List.mem_range.1 hr).trans_le hn), ?_⟩
  refine List.nodup_range.imp_of_mem fun hr hr' hne p hp hp' => hne ?_
  obtain ⟨c, hc, hbit⟩ := mem_rowPixels.1 hp
  obtain ⟨c', hc', hbit'⟩ := mem_rowPixels.1 hp'
  exact (spriteBit?_inj ((List.mem_range.1 hr).trans_le hn) ((List.mem_range.1 hr').trans_le hn) hc hc' hbit hbit').1

/-- The pixels the loop toggles are those a sprite bit falls on. -/
theorem mem_spritePixels_iff_covers (s : State) (x y : Reg) (n : Fin 16) (p : Fin 2048) :
    p ∈ s.spritePixels (s.originX x) (s.originY y) n.val ↔ s.spriteCovers x y n p := by
  simp only [mem_spritePixels, spriteBit?_eq_some]
  constructor
  · rintro ⟨r, hr, c, hc, hbit, hpoint⟩
    exact ⟨r, c, hr, hc, hbit, hpoint⟩
  · rintro ⟨r, c, hr, hc, hbit, hpoint⟩
    exact ⟨r, hr, c, hc, hbit, hpoint⟩

end Sys2Proof.Machine
end

section
/-! PROOFS. The statements of 40_display.md on DRW (R121 to R124), and W6 of 95_test_vectors.md. -/

namespace Sys2Proof.Machine

/-! ### What the drawing loop leaves -/

/-- The state DRW answers: the loop's pixels, then VF. -/
def State.drawn (s : State) (x y : Reg) (n : Fin 16) : State :=
  (drawSprite s.I.toNat (s.originX x) (s.originY y) n.val s).1.setFlag
    (drawSprite s.I.toNat (s.originX x) (s.originY y) n.val s).2

theorem exec_drw_eq_drawn (x y : Reg) (n : Fin 16) (s : State) : exec (.drw x y n) s = .next (s.drawn x y n) := rfl

theorem pixel_drawn (s : State) (x y : Reg) (n : Fin 16) (p : Fin 2048) : (s.drawn x y n).pixel p =
    if p ∈ s.spritePixels (s.originX x) (s.originY y) n.val then !s.pixel p else s.pixel p := by
  show Screen.pixel (drawSprite s.I.toNat (s.originX x) (s.originY y) n.val s).1.video p = _
  rw [drawSprite_video, pixel_toggleAll (spritePixels_nodup n.isLt.le)]
  rfl

theorem pixel_drawn_of_covers {s : State} {x y : Reg} {n : Fin 16} {p : Fin 2048} (h : s.spriteCovers x y n p) :
    (s.drawn x y n).pixel p = !s.pixel p := by
  rw [pixel_drawn, if_pos ((mem_spritePixels_iff_covers s x y n p).2 h)]

theorem pixel_drawn_of_not_covers {s : State} {x y : Reg} {n : Fin 16} {p : Fin 2048} (h : ¬ s.spriteCovers x y n p) :
    (s.drawn x y n).pixel p = s.pixel p := by
  rw [pixel_drawn, if_neg fun hmem => h ((mem_spritePixels_iff_covers s x y n p).1 hmem)]

/-- A pixel was erased exactly if a covered one was ON before the draw. -/
theorem drawSprite_flag_iff (s : State) (x y : Reg) (n : Fin 16) :
    (drawSprite s.I.toNat (s.originX x) (s.originY y) n.val s).2 = true ↔
      ∃ p, s.spriteCovers x y n p ∧ s.pixel p = true := by
  rw [drawSprite_flag, flag_toggleAll (spritePixels_nodup n.isLt.le)]
  simp only [mem_spritePixels_iff_covers, Bool.false_eq_true, false_or]
  rfl

theorem reg_drawn (s : State) (x y : Reg) (n : Fin 16) (r : Reg) : (s.drawn x y n).reg r =
    if r = 15 then flagByte (drawSprite s.I.toNat (s.originX x) (s.originY y) n.val s).2 else s.reg r := by
  rw [State.drawn, reg_setFlag, reg_congr (drawSprite_V _ _ _ _ s)]

/-- VF is 1 where a covered pixel was ON. -/
theorem flag_drawn_of_erased {s : State} {x y : Reg} {n : Fin 16} (h : ∃ p, s.spriteCovers x y n p ∧ s.pixel p = true) :
    ((s.drawn x y n).reg 15).toNat = 1 := by
  rw [reg_drawn, if_pos rfl, (drawSprite_flag_iff s x y n).2 h]
  rfl

/-- VF is 0 where every covered pixel was OFF. -/
theorem flag_drawn_of_not_erased {s : State} {x y : Reg} {n : Fin 16}
    (h : ∀ p, s.spriteCovers x y n p → s.pixel p = false) : ((s.drawn x y n).reg 15).toNat = 0 := by
  have hnone : ¬ ∃ p, s.spriteCovers x y n p ∧ s.pixel p = true := by
    rintro ⟨p, hcovers, hon⟩
    simp [h p hcovers] at hon
  have hoff := Bool.eq_false_iff.2 (mt (drawSprite_flag_iff s x y n).1 hnone)
  rw [reg_drawn, if_pos rfl, hoff]
  rfl

/-- Settles O49: the loop toggles the pixels of the sprite, each once. -/
theorem drwTogglesExactlyTheCoveredPixels : Obligations.DrwTogglesExactlyTheCoveredPixels :=
  fun s x y n => ⟨_, exec_drw_eq_drawn x y n s, fun _ => ⟨pixel_drawn_of_covers, pixel_drawn_of_not_covers⟩⟩

/-- Settles O50: the loop's flag, written to VF last. -/
theorem drwFlagSaysAPixelWasErased : Obligations.DrwFlagSaysAPixelWasErased :=
  fun s x y n => ⟨_, exec_drw_eq_drawn x y n s, flag_drawn_of_erased, flag_drawn_of_not_erased⟩

/-- The rows' reads record READ_OOB where one lies past memory. -/
theorem drawn_records (s : State) (x y : Reg) (n : Fin 16) :
    Records .readOob (∃ r, r < n.val ∧ 0xFFF < s.effAddr r) s (s.drawn x y n) :=
  ((drawSprite_records _ _ _ _ s).congr_right rfl).of_iff (by simp [State.effAddr])

theorem drawn_unchanged (s : State) (x y : Reg) (n : Fin 16) :
    UnchangedExcept [.V, .video, .fault] s (s.drawn x y n) :=
  unchanged_of_exec (exec_drw_eq_drawn x y n s)

/-- Settles O51: the dispatch of group D, then the registers, the one fault and the frame. -/
theorem drwWritesOnlyPixelsFlagAndReadFault : Obligations.DrwWritesOnlyPixelsFlagAndReadFault := by
  refine ⟨fun w hgroup => ⟨_, _, _, decodeWord_groupD hgroup, fieldN_val w⟩, fun s x y n =>
    ⟨_, exec_drw_eq_drawn x y n s, fun r hr => ?_, fun hin => ?_, (drawn_records s x y n).1, drawn_unchanged s x y n⟩⟩
  · rw [reg_drawn, if_neg hr]
  · refine (drawn_records s x y n).2 ?_
    rintro ⟨r, hr, hout⟩
    exact absurd (hin r hr) (by omega)

/-! ### Drawing twice (W6) -/

/-- A sprite covers the same pixels after it is drawn: a draw leaves its bytes, its origin and the policy alone. -/
theorem spriteCovers_drawn {s : State} {x y : Reg} {n : Fin 16} (hx : x ≠ 15) (hy : y ≠ 15) (p : Fin 2048) :
    (s.drawn x y n).spriteCovers x y n p ↔ s.spriteCovers x y n p := by
  have hframe := drawn_unchanged s x y n
  have hI : (s.drawn x y n).I = s.I := hframe .I (by simp)
  have hcfg : (s.drawn x y n).cfg = s.cfg := hframe .cfg (by simp)
  have hbyte := byteAt_congr (hframe .mem (by simp))
  have hregx : (s.drawn x y n).reg x = s.reg x := by rw [reg_drawn, if_neg hx]
  have hregy : (s.drawn x y n).reg y = s.reg y := by rw [reg_drawn, if_neg hy]
  simp only [State.spriteCovers, State.originX, State.originY, hI, hcfg, hbyte, hregx, hregy]

theorem pixel_drawn_twice {s : State} {x y : Reg} {n : Fin 16} (hx : x ≠ 15) (hy : y ≠ 15) (p : Fin 2048) :
    ((s.drawn x y n).drawn x y n).pixel p = s.pixel p := by
  by_cases h : s.spriteCovers x y n p
  · rw [pixel_drawn_of_covers ((spriteCovers_drawn hx hy p).2 h), pixel_drawn_of_covers h, Bool.not_not]
  · rw [pixel_drawn_of_not_covers (mt (spriteCovers_drawn hx hy p).1 h), pixel_drawn_of_not_covers h]

/-- Settles O52: the second draw covers the same pixels, which over a clear screen the first draw turned ON. -/
theorem drawingTwiceRestoresTheScreen : Obligations.DrawingTwiceRestoresTheScreen := by
  refine fun s x y n hx hy => ⟨_, _, exec_drw_eq_drawn x y n s, exec_drw_eq_drawn x y n _, pixel_drawn_twice hx hy,
    fun hclear p hcovers => flag_drawn_of_erased ⟨p, (spriteCovers_drawn hx hy p).2 hcovers, ?_⟩⟩
  rw [pixel_drawn_of_covers hcovers, hclear p, Bool.not_false]

end Sys2Proof.Machine
end
